-- ==== Sys2Proof/Word.lean ====
section
/-! DEFINITION. The word types of CRCE: bit 0 is the least significant bit, every value is unsigned
(00_scope.md R6). -/

namespace Sys2Proof

/-- A byte: an input byte, a FEED operand, a table index. -/
abbrev Byte := BitVec 8

/-- A host access descriptor (30_encoding.md R61). -/
abbrev Word16 := BitVec 16

/-- A 32-bit register value, a half of a 64-bit register, a command word. -/
abbrev Word32 := BitVec 32

/-- A 64-bit register value or a table entry (`REG_STORAGE`, 00_scope.md R5). -/
abbrev Word64 := BitVec 64

/-- A byte offset in the 4096-byte register window (20_memory.md R40). -/
abbrev Offset := BitVec 12

end Sys2Proof
end

