-- ==== Sys2Proof/Config.lean ====
section
/-! DEFINITION. The implementation parameters of CRCE (00_scope.md R5): the ones the spec fixes are numbers,
the OPEN ones are opaque, so that no proof can learn their value. `WIDTHS` and `REG_STORAGE` are fixed by the
types of `Machine/State.lean`, `HOSTS` by its one port, and `BUILD_CYCLES` is the schedule of offers in the
state (assumption 2). `INSTANCES` is not a parameter of one instance (assumption 6). -/

namespace Sys2Proof.Config

/-- `TABLE_ENTRIES`: "exactly 256 entries regardless of width" (41_table_builder.md R91). -/
abbrev tableEntries : Nat := 256

/-- The size in bytes of the register window, and the alignment of `BASE` (20_memory.md R40). -/
def windowBytes : Nat := 4096

/-- The page on which the platform places the window: OPEN (92_eei_decisions.md D3), a free value. -/
opaque basePage : Nat

/-- `BASE`: the host address of the window, 4096-byte aligned and otherwise free (20_memory.md R40). -/
def base : Nat := windowBytes * basePage

/-- `TABLE_RESET`: the contents of table entry `i` after hardware reset number `k`, OPEN, any value
(93_implementation_defined.md I1, 10_state.md R19). -/
opaque tableResetEntry (k : Nat) (i : Byte) : Word64

end Sys2Proof.Config
end

