-- ==== Sys2Proof/Syntax.lean ====
section
/-! DEFINITION. The instructions of CRCE: one constructor for every row of spec/opcode_table.json, 34 host access
forms (format BUS) and 6 commands (format CMD), 30_encoding.md R60. -/

namespace Sys2Proof

/-- The size of a host access: 1, 2, 4 or 8 bytes (20_memory.md R41). -/
inductive Size where
  | one
  | two
  | four
  | eight
deriving DecidableEq, Repr

/-- `size = 1 << SZ` in bytes (30_encoding.md R61). -/
def Size.bytes : Size → Nat
  | .one => 1
  | .two => 2
  | .four => 4
  | .eight => 8

/-- Which half of a 64-bit register a 4-byte access selects: `H = off[2]` (30_encoding.md R68). -/
inductive Half where
  /-- H = 0: bits 31:0. -/
  | low
  /-- H = 1: bits 63:32. -/
  | high
deriving DecidableEq, Repr

/-- The instructions. A write carries its data value, a 4-byte access to a 64-bit register its half. -/
inductive Instr where
  /-- RD.CFG, 43_host_access.md R121. -/
  | rdCfg
  /-- WR.CFG, R122. -/
  | wrCfg (v : Word32)
  /-- RD.STATUS, R123. -/
  | rdStatus
  /-- WR.STATUS, R124. -/
  | wrStatus (v : Word32)
  /-- RD.IRQEN, R125. -/
  | rdIrqen
  /-- WR.IRQEN, R126. -/
  | wrIrqen (v : Word32)
  /-- WR.CMD: the data value is a command word, R127. -/
  | wrCmd (c : Word32)
  /-- RD.POLY8, R128. -/
  | rdPoly8
  /-- RD.POLY4, R128. -/
  | rdPoly4 (h : Half)
  /-- WR.POLY8, R129. -/
  | wrPoly8 (v : Word64)
  /-- WR.POLY4, R129. -/
  | wrPoly4 (h : Half) (v : Word32)
  /-- RD.INIT8, R128. -/
  | rdInit8
  /-- RD.INIT4, R128. -/
  | rdInit4 (h : Half)
  /-- WR.INIT8, R130. -/
  | wrInit8 (v : Word64)
  /-- WR.INIT4, R130. -/
  | wrInit4 (h : Half) (v : Word32)
  /-- RD.XOROUT8, R128. -/
  | rdXorout8
  /-- RD.XOROUT4, R128. -/
  | rdXorout4 (h : Half)
  /-- WR.XOROUT8, R131. -/
  | wrXorout8 (v : Word64)
  /-- WR.XOROUT4, R131. -/
  | wrXorout4 (h : Half) (v : Word32)
  /-- RD.CRC8, R134. -/
  | rdCrc8
  /-- RD.CRC4, R134. -/
  | rdCrc4 (h : Half)
  /-- WR.CRC8, R135. -/
  | wrCrc8 (v : Word64)
  /-- WR.CRC4, R135. -/
  | wrCrc4 (h : Half) (v : Word32)
  /-- RD.RESULT8, R136. -/
  | rdResult8
  /-- RD.RESULT4, R136. -/
  | rdResult4 (h : Half)
  /-- RD.REVIN8, R137. -/
  | rdRevin8
  /-- RD.REVIN4, R137. -/
  | rdRevin4 (h : Half)
  /-- WR.REVIN8, R138. -/
  | wrRevin8 (v : Word64)
  /-- WR.REVIN4, R138. -/
  | wrRevin4 (h : Half) (v : Word32)
  /-- RD.REVOUT8, 40_bitrev.md R81. -/
  | rdRevout8
  /-- RD.REVOUT4, R81. -/
  | rdRevout4 (h : Half)
  /-- WR.DATA of `size` bytes, 42_streaming.md R106. -/
  | wrData (size : Size) (v : Word64)
  /-- RD.TABLE8 of entry i, 43_host_access.md R139. -/
  | rdTable8 (i : Byte)
  /-- RD.TABLE4 of one half of entry i, R139. -/
  | rdTable4 (i : Byte) (h : Half)
  /-- NOP, R140. -/
  | nop
  /-- BUILD, 41_table_builder.md R90. -/
  | build
  /-- START, 42_streaming.md R101. -/
  | start
  /-- FEED of byte b, R105. -/
  | feed (b : Byte)
  /-- FINAL, R109. -/
  | final
  /-- SRST, 43_host_access.md R141. -/
  | srst
deriving DecidableEq, Repr

end Sys2Proof
end

