-- ==== Sys2Proof/WellFormed.lean ====
section
/-! DEFINITION. Which instructions an encoding can carry. -/

namespace Sys2Proof

/-- An instruction is well formed when its data value fits its access size. Only WR.DATA carries a size beside
its value: a write of size s carries s bytes (30_encoding.md R61, R67). Every other operand fits by its type. -/
def Instr.wellFormed : Instr → Bool
  | .wrData size v => decide (v.toNat < 2 ^ (8 * size.bytes))
  | .rdCfg | .wrCfg _ | .rdStatus | .wrStatus _ | .rdIrqen | .wrIrqen _ | .wrCmd _ => true
  | .rdPoly8 | .rdPoly4 _ | .wrPoly8 _ | .wrPoly4 _ _ => true
  | .rdInit8 | .rdInit4 _ | .wrInit8 _ | .wrInit4 _ _ => true
  | .rdXorout8 | .rdXorout4 _ | .wrXorout8 _ | .wrXorout4 _ _ => true
  | .rdCrc8 | .rdCrc4 _ | .wrCrc8 _ | .wrCrc4 _ _ => true
  | .rdResult8 | .rdResult4 _ => true
  | .rdRevin8 | .rdRevin4 _ | .wrRevin8 _ | .wrRevin4 _ _ => true
  | .rdRevout8 | .rdRevout4 _ | .rdTable8 _ | .rdTable4 _ _ => true
  | .nop | .build | .start | .feed _ | .final | .srst => true

/-- The check as a proposition. -/
abbrev Instr.WellFormed (i : Instr) : Prop := i.wellFormed = true

end Sys2Proof
end

