-- ==== Sys2Proof/Decode.lean ====
section
/-! DEFINITION. Decoding (30_encoding.md R60 to R70): the BUS format, a 16-bit access descriptor with a data value,
and the CMD format, a 32-bit command word; then the encoder, and the opcode table's numbering of the bits. -/

namespace Sys2Proof

/-- The reasons for which an access is illegal and gets a bus error (30_encoding.md R70). -/
inductive BusError where
  /-- UNMAPPED: no register lives at the offset, or bit 12 of the descriptor is set. -/
  | unmapped
  /-- SIZE: a size the register does not accept, or a misaligned access. -/
  | size
  /-- RO: a write to RESULT, REVOUT or the TABLE window. -/
  | ro
  /-- WO: a read of CMD or DATA. -/
  | wo
deriving DecidableEq, Repr

/-- One host access in the BUS format (30_encoding.md R60, R61): the descriptor, and the data value of a write,
assembled little-endian. Data bits above the access size, and the data of a read, carry nothing (assumption 7). -/
structure Access where
  desc : Word16
  data : Word64
deriving DecidableEq, Repr

/-- DIR, bit 15 of the descriptor: true is a write (30_encoding.md R61). -/
def descWrites (desc : Word16) : Bool := desc.getLsbD 15

/-- The access size from SZ, bits 14:13 of the descriptor (30_encoding.md R61). -/
def descSize (desc : Word16) : Size :=
  match desc.getLsbD 14, desc.getLsbD 13 with
  | false, false => .one
  | false, true => .two
  | true, false => .four
  | true, true => .eight

/-- Bit 12 of the descriptor, which must be 0 (30_encoding.md R61). -/
def descBit12 (desc : Word16) : Bool := desc.getLsbD 12

/-- OFF, bits 11:0 of the descriptor (30_encoding.md R61). -/
def descOff (desc : Word16) : Offset := desc.extractLsb' 0 12

/-- `H = OFF[2]`: the half a 4-byte access to a 64-bit register selects (30_encoding.md R63). -/
def offHalf (off : Offset) : Half := if off.getLsbD 2 then .high else .low

/-- `i = OFF[10:3]`: the table entry an access to the TABLE window selects (30_encoding.md R63). -/
def offEntry (off : Offset) : Byte := off.extractLsb' 3 8

/-- The access is the one access that is never held: a 4-byte read of STATUS at offset 0x004
(43_host_access.md R120). A descriptor with bit 12 set is no such read (assumption 10). -/
def Access.isStatusRead (a : Access) : Bool :=
  !descWrites a.desc && descSize a.desc == .four && !descBit12 a.desc && descOff a.desc == 0x004#12

/-- The low `8·size` bits of a data value: the bytes an access of that size carries (20_memory.md R42). -/
def dataOfSize (size : Size) (v : Word64) : Word64 :=
  match size with
  | .one => (v.setWidth 8).setWidth 64
  | .two => (v.setWidth 16).setWidth 64
  | .four => (v.setWidth 32).setWidth 64
  | .eight => v

/-- An access to the TABLE window, OFF ≥ 0x800 (the first lines of 30_encoding.md R63). -/
def decodeTable (desc : Word16) : Except BusError Instr :=
  if descWrites desc then .error .ro
  else
    match descSize desc, (descOff desc).extractLsb' 0 3, (descOff desc).extractLsb' 0 2 with
    | .eight, 0, _ => .ok (.rdTable8 (offEntry (descOff desc)))
    | .four, _, 0 => .ok (.rdTable4 (offEntry (descOff desc)) (offHalf (descOff desc)))
    | _, _, _ => .error .size

/-- The registers of the map with 32 bits (30_encoding.md R62). -/
inductive Reg32 where
  | cfg
  | status
  | irqen
  | cmd
deriving DecidableEq, Repr

/-- The registers of the map with 64 bits (30_encoding.md R62). -/
inductive Reg64 where
  | poly
  | init
  | xorout
  | crc
  | result
  | revin
  | revout
deriving DecidableEq, Repr

/-- The 32-bit register at an offset (30_encoding.md R62). -/
def reg32At (off : Offset) : Option Reg32 :=
  if off = 0x000#12 then some .cfg
  else if off = 0x004#12 then some .status
  else if off = 0x008#12 then some .irqen
  else if off = 0x00C#12 then some .cmd
  else none

/-- The 64-bit register whose 8 bytes hold an offset: the register at `OFF` with bits 2:0 cleared
(30_encoding.md R62, R63). DATA, at 0x038, is none of them. -/
def reg64At (off : Offset) : Option Reg64 :=
  let o := off &&& 0xFF8#12
  if o = 0x010#12 then some .poly
  else if o = 0x018#12 then some .init
  else if o = 0x020#12 then some .xorout
  else if o = 0x028#12 then some .crc
  else if o = 0x030#12 then some .result
  else if o = 0x040#12 then some .revin
  else if o = 0x048#12 then some .revout
  else none

/-- An access to a 32-bit register (30_encoding.md R63). -/
def decodeReg32 (r : Reg32) (desc : Word16) (v : Word32) : Except BusError Instr :=
  match descSize desc, r, descWrites desc with
  | .four, .cfg, false => .ok .rdCfg
  | .four, .cfg, true => .ok (.wrCfg v)
  | .four, .status, false => .ok .rdStatus
  | .four, .status, true => .ok (.wrStatus v)
  | .four, .irqen, false => .ok .rdIrqen
  | .four, .irqen, true => .ok (.wrIrqen v)
  | .four, .cmd, false => .error .wo
  | .four, .cmd, true => .ok (.wrCmd v)
  | _, _, _ => .error .size

/-- The 8-byte form of an access to a 64-bit register (30_encoding.md R63). -/
def decodeReg64Whole (r : Reg64) (write : Bool) (v : Word64) : Except BusError Instr :=
  match r, write with
  | .poly, false => .ok .rdPoly8
  | .poly, true => .ok (.wrPoly8 v)
  | .init, false => .ok .rdInit8
  | .init, true => .ok (.wrInit8 v)
  | .xorout, false => .ok .rdXorout8
  | .xorout, true => .ok (.wrXorout8 v)
  | .crc, false => .ok .rdCrc8
  | .crc, true => .ok (.wrCrc8 v)
  | .result, false => .ok .rdResult8
  | .result, true => .error .ro
  | .revin, false => .ok .rdRevin8
  | .revin, true => .ok (.wrRevin8 v)
  | .revout, false => .ok .rdRevout8
  | .revout, true => .error .ro

/-- The 4-byte form of an access to half `h` of a 64-bit register (30_encoding.md R63). -/
def decodeReg64Half (r : Reg64) (write : Bool) (h : Half) (v : Word32) : Except BusError Instr :=
  match r, write with
  | .poly, false => .ok (.rdPoly4 h)
  | .poly, true => .ok (.wrPoly4 h v)
  | .init, false => .ok (.rdInit4 h)
  | .init, true => .ok (.wrInit4 h v)
  | .xorout, false => .ok (.rdXorout4 h)
  | .xorout, true => .ok (.wrXorout4 h v)
  | .crc, false => .ok (.rdCrc4 h)
  | .crc, true => .ok (.wrCrc4 h v)
  | .result, false => .ok (.rdResult4 h)
  | .result, true => .error .ro
  | .revin, false => .ok (.rdRevin4 h)
  | .revin, true => .ok (.wrRevin4 h v)
  | .revout, false => .ok (.rdRevout4 h)
  | .revout, true => .error .ro

/-- An access to a 64-bit register: the size is decided before RO (30_encoding.md R63, 95_test_vectors.md §2.9). -/
def decodeReg64 (r : Reg64) (desc : Word16) (v : Word64) : Except BusError Instr :=
  match descSize desc, (descOff desc).extractLsb' 0 3, (descOff desc).extractLsb' 0 2 with
  | .eight, 0, _ => decodeReg64Whole r (descWrites desc) v
  | .four, _, 0 => decodeReg64Half r (descWrites desc) (offHalf (descOff desc)) (v.setWidth 32)
  | _, _, _ => .error .size

/-- `decode(DIR, SZ, OFF)` of 30_encoding.md R63, with the data value of a write: total, and every illegal access
rejected by its reason. -/
def decodeBus (a : Access) : Except BusError Instr :=
  let off := descOff a.desc
  if descBit12 a.desc then .error .unmapped
  else if 0x800 ≤ off.toNat then decodeTable a.desc
  else if off = 0x038#12 then
    if descWrites a.desc then .ok (.wrData (descSize a.desc) (dataOfSize (descSize a.desc) a.data))
    else .error .wo
  else
    match reg32At off, reg64At off with
    | some r, _ => decodeReg32 r a.desc (a.data.setWidth 32)
    | none, some r => decodeReg64 r a.desc a.data
    | none, none => .error .unmapped

/-- OP, bits 7:0 of a command word (30_encoding.md R64). -/
def cmdOp (c : Word32) : Byte := c.extractLsb' 0 8

/-- ARG, bits 15:8 of a command word (30_encoding.md R64). -/
def cmdArg (c : Word32) : Byte := c.extractLsb' 8 8

/-- RSV, bits 31:16 of a command word (30_encoding.md R64). -/
def cmdRsv (c : Word32) : Word16 := c.extractLsb' 16 16

/-- The command a word stands for; `none` for an illegal word, which raises ILLCMD
(30_encoding.md R65, R69, 43_host_access.md R127). -/
def decodeCmd (c : Word32) : Option Instr :=
  if cmdRsv c ≠ 0 ∨ 0x06 ≤ (cmdOp c).toNat ∨ (cmdArg c ≠ 0 ∧ cmdOp c ≠ 0x03) then none
  else
    match (cmdOp c).toNat with
    | 0x00 => some .nop
    | 0x01 => some .build
    | 0x02 => some .start
    | 0x03 => some (.feed (cmdArg c))
    | 0x04 => some .final
    | 0x05 => some .srst
    | _ => none

/-- An encoded instruction in one of the two formats (30_encoding.md R60). -/
inductive Code where
  | bus (a : Access)
  | cmd (c : Word32)
deriving DecidableEq, Repr

/-- What decoding answers: an instruction, or a rejection by name. -/
inductive Decoded where
  | ok (i : Instr)
  /-- The access is illegal: it gets a bus error (30_encoding.md R70). -/
  | illegalAccess (r : BusError)
  /-- The command word is illegal: it raises ILLCMD (30_encoding.md R69). -/
  | illegalCommand
deriving DecidableEq, Repr

/-- Decoding of both formats, total. -/
def decode : Code → Decoded
  | .bus a =>
    match decodeBus a with
    | .ok i => .ok i
    | .error r => .illegalAccess r
  | .cmd c =>
    match decodeCmd c with
    | some i => .ok i
    | none => .illegalCommand

/-- SZ of a size (30_encoding.md R61). -/
def sizeBits : Size → BitVec 2
  | .one => 0
  | .two => 1
  | .four => 2
  | .eight => 3

/-- `desc = DIR << 15 | SZ << 13 | OFF` (30_encoding.md R61). -/
def descOf (write : Bool) (size : Size) (off : Offset) : Word16 :=
  BitVec.ofBool write ++ sizeBits size ++ 0#1 ++ off

/-- The offset of half `h` of the 64-bit register at `o` (20_memory.md R43). -/
def halfOff (o : Offset) : Half → Offset
  | .low => o
  | .high => o + 4

/-- The offset of table entry i, `0x800 + 8·i` (20_memory.md R49). -/
def entryOff (i : Byte) : Offset := 1#1 ++ i ++ 0#3

/-- The code of a read access. -/
def readCode (size : Size) (off : Offset) : Code := .bus ⟨descOf false size off, 0⟩

/-- The code of a write access. -/
def writeCode (size : Size) (off : Offset) (v : Word64) : Code := .bus ⟨descOf true size off, v⟩

/-- A command word, `RSV << 16 | ARG << 8 | OP` with RSV = 0 (30_encoding.md R65). -/
def cmdWord (op : Byte) (arg : Byte) : Word32 := 0#16 ++ arg ++ op

/-- The encoder, from the register map of 30_encoding.md R62 and the command table of R65. -/
def encode : Instr → Code
  | .rdCfg => readCode .four 0x000
  | .wrCfg v => writeCode .four 0x000 (v.setWidth 64)
  | .rdStatus => readCode .four 0x004
  | .wrStatus v => writeCode .four 0x004 (v.setWidth 64)
  | .rdIrqen => readCode .four 0x008
  | .wrIrqen v => writeCode .four 0x008 (v.setWidth 64)
  | .wrCmd c => writeCode .four 0x00C (c.setWidth 64)
  | .rdPoly8 => readCode .eight 0x010
  | .rdPoly4 h => readCode .four (halfOff 0x010 h)
  | .wrPoly8 v => writeCode .eight 0x010 v
  | .wrPoly4 h v => writeCode .four (halfOff 0x010 h) (v.setWidth 64)
  | .rdInit8 => readCode .eight 0x018
  | .rdInit4 h => readCode .four (halfOff 0x018 h)
  | .wrInit8 v => writeCode .eight 0x018 v
  | .wrInit4 h v => writeCode .four (halfOff 0x018 h) (v.setWidth 64)
  | .rdXorout8 => readCode .eight 0x020
  | .rdXorout4 h => readCode .four (halfOff 0x020 h)
  | .wrXorout8 v => writeCode .eight 0x020 v
  | .wrXorout4 h v => writeCode .four (halfOff 0x020 h) (v.setWidth 64)
  | .rdCrc8 => readCode .eight 0x028
  | .rdCrc4 h => readCode .four (halfOff 0x028 h)
  | .wrCrc8 v => writeCode .eight 0x028 v
  | .wrCrc4 h v => writeCode .four (halfOff 0x028 h) (v.setWidth 64)
  | .rdResult8 => readCode .eight 0x030
  | .rdResult4 h => readCode .four (halfOff 0x030 h)
  | .rdRevin8 => readCode .eight 0x040
  | .rdRevin4 h => readCode .four (halfOff 0x040 h)
  | .wrRevin8 v => writeCode .eight 0x040 v
  | .wrRevin4 h v => writeCode .four (halfOff 0x040 h) (v.setWidth 64)
  | .rdRevout8 => readCode .eight 0x048
  | .rdRevout4 h => readCode .four (halfOff 0x048 h)
  | .wrData size v => writeCode size 0x038 v
  | .rdTable8 i => readCode .eight (entryOff i)
  | .rdTable4 i h => readCode .four (halfOff (entryOff i) h)
  | .nop => .cmd (cmdWord 0x00 0)
  | .build => .cmd (cmdWord 0x01 0)
  | .start => .cmd (cmdWord 0x02 0)
  | .feed b => .cmd (cmdWord 0x03 b)
  | .final => .cmd (cmdWord 0x04 0)
  | .srst => .cmd (cmdWord 0x05 0)

/-- A code with the bits that carry nothing set to 0: the data of a read, and the data bits above the size of a
write (assumption 7). Two codes with the same canonical form are the same access. -/
def Code.canonical : Code → Code
  | .bus a =>
    .bus ⟨a.desc, if descWrites a.desc then dataOfSize (descSize a.desc) a.data else 0⟩
  | .cmd c => .cmd c

/-- The code whose bits are `w` as spec/opcode_table.json numbers them (assumption 8): a row of 32 bits is a command
word, every other row an access descriptor in bits 15:0 with its data value in the bits above. -/
def codeOfTable (nbits w : Nat) : Code :=
  if nbits = 32 then .cmd (BitVec.ofNat 32 w)
  else .bus ⟨BitVec.ofNat 16 w, BitVec.ofNat 64 (w % 2 ^ nbits / 2 ^ 16)⟩

/-- The host access that carries a code: a command word travels as the data of a 4-byte write to CMD, offset
0x00C (30_encoding.md R60). -/
def Code.access : Code → Access
  | .bus a => a
  | .cmd c => ⟨descOf true .four 0x00C, c.setWidth 64⟩

/-- The instruction the decoder reads from bits numbered as spec/opcode_table.json numbers them. -/
def decodeTableWord (nbits w : Nat) : Option Instr :=
  match decode (codeOfTable nbits w) with
  | .ok i => some i
  | .illegalAccess _ => none
  | .illegalCommand => none

/-- A row of spec/opcode_table.json: the bits under `mask` are those of `pattern`. -/
inductive Opcode where
  | bus (mask pattern : Word16)
  | cmd (mask pattern : Word32)
deriving DecidableEq, Repr

/-- A code has the fixed bits of a row. -/
def Opcode.fits : Opcode → Code → Bool
  | .bus mask pattern, .bus a => a.desc &&& mask == pattern
  | .cmd mask pattern, .cmd c => c &&& mask == pattern
  | .bus _ _, .cmd _ => false
  | .cmd _ _, .bus _ => false

/-- The row of spec/opcode_table.json an instruction belongs to. -/
def Instr.opcode : Instr → Opcode
  | .rdCfg => .bus 0xFFFF 0x4000
  | .wrCfg _ => .bus 0xFFFF 0xC000
  | .rdStatus => .bus 0xFFFF 0x4004
  | .wrStatus _ => .bus 0xFFFF 0xC004
  | .rdIrqen => .bus 0xFFFF 0x4008
  | .wrIrqen _ => .bus 0xFFFF 0xC008
  | .wrCmd _ => .bus 0xFFFF 0xC00C
  | .rdPoly8 => .bus 0xFFFF 0x6010
  | .rdPoly4 _ => .bus 0xFFFB 0x4010
  | .wrPoly8 _ => .bus 0xFFFF 0xE010
  | .wrPoly4 _ _ => .bus 0xFFFB 0xC010
  | .rdInit8 => .bus 0xFFFF 0x6018
  | .rdInit4 _ => .bus 0xFFFB 0x4018
  | .wrInit8 _ => .bus 0xFFFF 0xE018
  | .wrInit4 _ _ => .bus 0xFFFB 0xC018
  | .rdXorout8 => .bus 0xFFFF 0x6020
  | .rdXorout4 _ => .bus 0xFFFB 0x4020
  | .wrXorout8 _ => .bus 0xFFFF 0xE020
  | .wrXorout4 _ _ => .bus 0xFFFB 0xC020
  | .rdCrc8 => .bus 0xFFFF 0x6028
  | .rdCrc4 _ => .bus 0xFFFB 0x4028
  | .wrCrc8 _ => .bus 0xFFFF 0xE028
  | .wrCrc4 _ _ => .bus 0xFFFB 0xC028
  | .rdResult8 => .bus 0xFFFF 0x6030
  | .rdResult4 _ => .bus 0xFFFB 0x4030
  | .rdRevin8 => .bus 0xFFFF 0x6040
  | .rdRevin4 _ => .bus 0xFFFB 0x4040
  | .wrRevin8 _ => .bus 0xFFFF 0xE040
  | .wrRevin4 _ _ => .bus 0xFFFB 0xC040
  | .rdRevout8 => .bus 0xFFFF 0x6048
  | .rdRevout4 _ => .bus 0xFFFB 0x4048
  | .wrData _ _ => .bus 0x9FFF 0x8038
  | .rdTable8 _ => .bus 0xF807 0x6800
  | .rdTable4 _ _ => .bus 0xF803 0x4800
  | .nop => .cmd 0xFFFFFFFF 0x00000000
  | .build => .cmd 0xFFFFFFFF 0x00000001
  | .start => .cmd 0xFFFFFFFF 0x00000002
  | .feed _ => .cmd 0xFFFF00FF 0x00000003
  | .final => .cmd 0xFFFFFFFF 0x00000004
  | .srst => .cmd 0xFFFFFFFF 0x00000005

/-- The read and write forms of the 64-bit registers in the order of spec/opcode_table.json, each row by an instruction
of it. -/
def opcodeRows64 : List Instr :=
  [.rdPoly8, .rdPoly4 .low, .wrPoly8 0, .wrPoly4 .low 0, .rdInit8, .rdInit4 .low, .wrInit8 0, .wrInit4 .low 0,
    .rdXorout8, .rdXorout4 .low, .wrXorout8 0, .wrXorout4 .low 0, .rdCrc8, .rdCrc4 .low, .wrCrc8 0, .wrCrc4 .low 0,
    .rdResult8, .rdResult4 .low, .rdRevin8, .rdRevin4 .low, .wrRevin8 0, .wrRevin4 .low 0, .rdRevout8,
    .rdRevout4 .low]

/-- The other forms, in the order of spec/opcode_table.json, each row by an instruction of it. -/
def opcodeRowsRest : List Instr :=
  [.rdCfg, .wrCfg 0, .rdStatus, .wrStatus 0, .rdIrqen, .wrIrqen 0, .wrCmd 0, .wrData .one 0, .rdTable8 0,
    .rdTable4 0 .low, .nop, .build, .start, .feed 0, .final, .srst]

/-- The 40 rows of spec/opcode_table.json. -/
def opcodeTable : List Opcode := (opcodeRows64 ++ opcodeRowsRest).map Instr.opcode

end Sys2Proof
end

