-- ==== Sys2Proof/Machine/State.lean ====
section
/-! DEFINITION. The state of CRCE (10_state.md R10), the two input streams and the one response of its host port
(the model's own fields, assumptions 1 to 4), the reasons a step could stop, and the state after reset (R29). -/

namespace Sys2Proof.Machine

/-- What the host port answers to a completed access (20_memory.md R41). -/
inductive Response where
  /-- A 4-byte read returns a value. -/
  | word32 (v : Word32)
  /-- An 8-byte read returns a value. -/
  | word64 (v : Word64)
  /-- A write is accepted, also when its command raises a command error (30_encoding.md R69). -/
  | written
  /-- The access gets a bus error (60_exceptions.md R155). -/
  | busError (r : BusError)
deriving DecidableEq, Repr

/-- What the host offers on its port in one turn (assumptions 1 and 2). -/
inductive Offer where
  /-- No access in this turn. -/
  | idle
  /-- An access, offered until CRCE accepts it. -/
  | access (a : Access)
deriving DecidableEq, Repr

/-- The state of one CRCE. The fields down to `bidx` are the architectural state of 10_state.md R10; the last
four are the model's own. -/
structure State where
  /-- CFG.WIDTH, bits 1:0 (R11). -/
  width : BitVec 2
  /-- CFG.REFIN, bit 2 (R11). -/
  refin : Bool
  /-- CFG.REFOUT, bit 3 (R11). -/
  refout : Bool
  /-- STATUS.BUSY, bit 0 (R13, R22). -/
  busy : Bool
  /-- STATUS.TVALID, bit 1 (R13, R20). -/
  tvalid : Bool
  /-- STATUS.RVALID, bit 2 (R13, R21). -/
  rvalid : Bool
  /-- STATUS.DONE, bit 3 (R13, R23). -/
  done : Bool
  /-- STATUS.ERR, bits 10:8 (R13, R24). -/
  err : BitVec 3
  /-- IRQEN.IE_DONE, bit 0 (R14). -/
  ieDone : Bool
  /-- IRQEN.IE_ERR, bit 1 (R14). -/
  ieErr : Bool
  /-- POLY, all 64 written bits (R15). -/
  poly : Word64
  /-- INIT, all 64 written bits (R15). -/
  init : Word64
  /-- XOROUT, all 64 written bits (R15). -/
  xorout : Word64
  /-- REG, the running partial remainder, the CRC register of the map (R16). -/
  reg : Word64
  /-- RESULT, the last finalised checksum (R17). -/
  result : Word64
  /-- REVIN, the operand of the bit-reversal unit (R18). -/
  revin : Word64
  /-- T[0..255] (R19). -/
  table : Vector Word64 256
  /-- BIDX, the builder's next entry, 0 to 256, hidden (R22). -/
  bidx : BitVec 9
  /-- The response to the last access answered since reset (assumption 1). -/
  resp : Option Response
  /-- What the host offers, this turn's offer first; nothing after the end of the list (assumptions 1, 2). -/
  port : List Offer
  /-- The level of the reset input, this turn's first; deasserted after the end of the list (assumption 3). -/
  resetLine : List Bool
  /-- The number of the next hardware reset, which selects its free `TABLE_RESET` (assumption 4). -/
  resets : Nat
deriving DecidableEq, Repr

/-- The reasons a step stops with a fault: none. CRCE has no trap; every error is a state it goes on from
(60_exceptions.md R159, assumption 14). -/
inductive Fault where
deriving DecidableEq, Repr

/-- The reasons a step is refused. -/
inductive Refusal where
  /-- Raised by an arm of exec whose instruction has no meaning yet: no arm does. Safe. -/
  | notModelled (mnemonic : String)
deriving DecidableEq, Repr

/-- The table after hardware reset number `k`: `TABLE_RESET`, 256 free values (10_state.md R19, R29). -/
def tableOfReset (k : Nat) : Vector Word64 256 :=
  Vector.ofFn fun i => Config.tableResetEntry k (BitVec.ofFin i)

/-- The state after a hardware reset (10_state.md R29): every register and flag 0 and T any value. The host offers
nothing yet, and no access has been answered (assumptions 1 and 8). -/
def State.reset : State where
  width := 0
  refin := false
  refout := false
  busy := false
  tvalid := false
  rvalid := false
  done := false
  err := 0
  ieDone := false
  ieErr := false
  poly := 0
  init := 0
  xorout := 0
  reg := 0
  result := 0
  revin := 0
  table := tableOfReset 0
  bidx := 0
  resp := none
  port := []
  resetLine := []
  resets := 1

end Sys2Proof.Machine
end

