-- ==== Sys2Proof/Machine/Operands.lean ====
section
/-! DEFINITION. The operand forms: the current width and its mask (00_scope.md R7), bit reversal (40_bitrev.md R80),
whole and half accesses to a 64-bit register (43_host_access.md R120), the bytes of a DATA write, and access to
the table. -/

namespace Sys2Proof.Machine

/-- `width(WIDTH) = 8 << WIDTH` (10_state.md R11). -/
def widthOf (width : BitVec 2) : Nat := 8 <<< width.toNat

/-- `W`, the current CRC width (00_scope.md R7). -/
def State.W (s : State) : Nat := widthOf s.width

/-- `mask(W) = 2^W - 1` (00_scope.md R7). -/
def mask (W : Nat) : Word64 := BitVec.ofNat 64 (2 ^ W - 1)

/-- A value at width W: `v[W-1:0] = v & mask(W)`, zero-extended (00_scope.md R7). -/
def atWidth (W : Nat) (v : Word64) : Word64 := v &&& mask W

/-- `rev_W(x)`, zero-extended: bit j of the result is bit `W-1-j` of x, for j below W ≤ 64, and no other bit of x is
read (40_bitrev.md R80). -/
def rev (W : Nat) (x : Word64) : Word64 := x.reverse >>> (64 - W)

/-- The half `h` of a 64-bit value (30_encoding.md R68). -/
def halfOf (h : Half) (x : Word64) : Word32 :=
  match h with
  | .low => x.extractLsb' 0 32
  | .high => x.extractLsb' 32 32

/-- `wr64` of a 4-byte access: `v` replaces half `h` of `old`, the other half is kept (43_host_access.md R120). -/
def withHalf (h : Half) (old : Word64) (v : Word32) : Word64 :=
  match h with
  | .low => old.extractLsb' 32 32 ++ v
  | .high => v ++ old.extractLsb' 0 32

/-- The bytes a DATA write of `size` carries, byte 0 (bits 7:0) first (30_encoding.md R67, 20_memory.md R44). -/
def dataBytes (size : Size) (v : Word64) : List Byte :=
  (List.range size.bytes).map fun k => v.extractLsb' (8 * k) 8

/-- `T[i]` (00_scope.md R8). -/
def State.entryAt (s : State) (i : Byte) : Word64 := s.table[i.toNat]'i.isLt

/-- `T[k] <- v` for k in 0..255 (00_scope.md R8). -/
def State.setEntry (s : State) (k : Nat) (v : Word64) : State :=
  { s with table := s.table.setIfInBounds k v }

end Sys2Proof.Machine
end

