-- ==== Sys2Proof/Machine/Flags.lean ====
section
/-! DEFINITION. The flags and the views of the flag registers: the coupling of the configuration (10_state.md R12),
the irq output (R25), and what CFG, STATUS and IRQEN read as. -/

namespace Sys2Proof.Machine

/-- `cfg_ok`: the configuration is coupled (10_state.md R12). -/
def State.cfgOk (s : State) : Bool := s.refin == s.refout

/-- The irq output, a level (10_state.md R25, 60_exceptions.md R157). -/
def State.irq (s : State) : Bool := (s.ieDone && s.done) || (s.ieErr && s.err != 0)

/-- What CFG reads as: bits 31:4 are 0 (43_host_access.md R121). -/
def State.cfgWord (s : State) : Word32 :=
  0#28 ++ BitVec.ofBool s.refout ++ BitVec.ofBool s.refin ++ s.width

/-- What STATUS reads as: `{irq, ERR, 0b000, 0, DONE, RVALID, TVALID, BUSY}` (43_host_access.md R123). -/
def State.statusWord (s : State) : Word32 :=
  0#20 ++ BitVec.ofBool s.irq ++ s.err ++ 0#4 ++ BitVec.ofBool s.done ++ BitVec.ofBool s.rvalid ++
    BitVec.ofBool s.tvalid ++ BitVec.ofBool s.busy

/-- What IRQEN reads as (43_host_access.md R125). -/
def State.irqenWord (s : State) : Word32 :=
  0#30 ++ BitVec.ofBool s.ieErr ++ BitVec.ofBool s.ieDone

end Sys2Proof.Machine
end

