-- ==== Sys2Proof/Machine/Ops.lean ====
section
/-! DEFINITION. The shared operations of the machine: answering an access, raising a command error or a bus error
(60_exceptions.md R150, R155) and acknowledging one (R160), and the hardware reset (70_reset_and_hazards.md R170). -/

namespace Sys2Proof.Machine

/-- The outcome of a step of CRCE. -/
abbrev Outcome := Host.Outcome State Fault Refusal

/-- The port answers the access it has performed. -/
def State.respond (s : State) (r : Response) : State := { s with resp := some r }

/-- A write completes. -/
def State.written (s : State) : Outcome := .next (s.respond .written)

/-- A 4-byte read returns `v`. -/
def State.return32 (s : State) (v : Word32) : Outcome := .next (s.respond (.word32 v))

/-- An 8-byte read returns `v`. -/
def State.return64 (s : State) (v : Word64) : Outcome := .next (s.respond (.word64 v))

/-- The command errors (60_exceptions.md R151). -/
inductive CmdError where
  | illCmd
  | cfg
  | noTable
  | noReg
deriving DecidableEq, Repr

/-- The code of a command error in STATUS.ERR (60_exceptions.md R151). -/
def CmdError.code : CmdError → BitVec 3
  | .illCmd => 1
  | .cfg => 2
  | .noTable => 3
  | .noReg => 4

/-- `if STATUS.ERR == 0: STATUS.ERR <- code`: the first error is kept (60_exceptions.md R150). -/
def State.recordError (s : State) (e : CmdError) : State :=
  { s with err := if s.err = 0 then e.code else s.err }

/-- `raise CmdError(e)`: the error is recorded, and the write that raised it ends with no other effect
(60_exceptions.md R150, R154). -/
def raiseCmdError (e : CmdError) (s : State) : Outcome := (s.recordError e).written

/-- `raise BusError(r)`: the access completes with an error response and changes no state (60_exceptions.md R155). -/
def raiseBusError (r : BusError) (s : State) : Outcome := .next (s.respond (.busError r))

/-- The host acknowledges (60_exceptions.md R160): `ackDone` clears DONE and `ackErr` clears ERR
(43_host_access.md R124). -/
def State.acknowledge (s : State) (ackDone ackErr : Bool) : State :=
  { s with
    done := s.done && !ackDone
    err := if ackErr then 0 else s.err }

/-- The reset input is asserted in this turn: every piece of state takes its reset value, with a new `TABLE_RESET`;
a build is abandoned (70_reset_and_hazards.md R170). The input streams are outside CRCE and stay. -/
def State.hwReset (s : State) : State :=
  { State.reset with
    table := tableOfReset s.resets
    resets := s.resets + 1
    port := s.port
    resetLine := s.resetLine }

end Sys2Proof.Machine
end

