-- ==== Sys2Proof/Machine/Bitrev.lean ====
section
/-! DEFINITION. The bit-reversal unit: RD.REVOUT8 and RD.REVOUT4 (40_bitrev.md R81). -/

namespace Sys2Proof.Machine

/-- `REVOUT = zext_64(rev_W(REVIN[W-1:0]))`, with no storage (10_state.md R18). -/
def State.revout (s : State) : Word64 := rev s.W (atWidth s.W s.revin)

/-- RD.REVOUT8 (40_bitrev.md R81). -/
def execRdRevout8 (s : State) : Outcome := s.return64 s.revout

/-- RD.REVOUT4 (40_bitrev.md R81). -/
def execRdRevout4 (h : Half) (s : State) : Outcome := s.return32 (halfOf h s.revout)

end Sys2Proof.Machine
end

