-- ==== Sys2Proof/Machine/TableBuilder.lean ====
section
/-! DEFINITION. The Sarwate table builder: the table's entries (41_table_builder.md R91 to R93), BUILD (R90) and the
builder agent's step (R94). -/

namespace Sys2Proof.Machine

/-- One bit step of the reflected mode with the reversed polynomial `q` (41_table_builder.md R92). -/
def reflectedStep (q c : Word64) : Word64 :=
  if c.getLsbD 0 then (c >>> 1) ^^^ q else c >>> 1

/-- One bit step of the normal mode with polynomial `p` (41_table_builder.md R93). -/
def normalStep (W : Nat) (p c : Word64) : Word64 :=
  if c.getLsbD (W - 1) then atWidth W ((c <<< 1) ^^^ p) else atWidth W (c <<< 1)

/-- `entry(W, p, r, i)`: eight bit steps from the seed byte, in the low bits in reflected mode and in the high byte of
W bits in normal mode (41_table_builder.md R92, R93). -/
def entry (W : Nat) (p : Word64) (reflected : Bool) (i : Byte) : Word64 :=
  if reflected then (reflectedStep (rev W p))^[8] (i.setWidth 64)
  else (normalStep W p)^[8] (i.setWidth 64 <<< (W - 8))

/-- The entry that the current CFG and POLY give for index `i` (41_table_builder.md R91). -/
def State.entryFor (s : State) (i : Byte) : Word64 :=
  entry s.W (atWidth s.W s.poly) s.refin i

/-- BUILD (41_table_builder.md R90). -/
def execBuild (s : State) : Outcome :=
  if s.cfgOk then State.written { s with tvalid := false, busy := true, bidx := 0 }
  else raiseCmdError .cfg s

/-- One step of the builder agent, enabled while BUSY = 1 (41_table_builder.md R94). A BIDX above 256, which no run
reaches, ends the build as 256 does (assumption 18). -/
def State.builderStep (s : State) : State :=
  if s.bidx.toNat < Config.tableEntries then
    { s.setEntry s.bidx.toNat (s.entryFor (s.bidx.setWidth 8)) with bidx := s.bidx + 1 }
  else { s with busy := false, tvalid := true, done := true, bidx := 0 }

end Sys2Proof.Machine
end

