-- ==== Sys2Proof/Machine/Streaming.lean ====
section
/-! DEFINITION. The streaming remainder accumulator: START, FEED, WR.DATA and FINAL (42_streaming.md). -/

namespace Sys2Proof.Machine

/-- `init_reg()` (42_streaming.md R100). -/
def State.initReg (s : State) : Word64 :=
  if s.refin then rev s.W (atWidth s.W s.init) else atWidth s.W s.init

/-- START (42_streaming.md R101). -/
def execStart (s : State) : Outcome :=
  if s.cfgOk then State.written { s with reg := s.initReg, rvalid := true }
  else raiseCmdError .cfg s

/-- `feed_check()`: the error that stops a FEED or a DATA write, if there is one (42_streaming.md R102). -/
def State.feedCheck (s : State) : Option CmdError :=
  if !s.tvalid then some .noTable
  else if !s.rvalid then some .noReg
  else none

/-- `update(b, r)` on a register value `r` of W bits (42_streaming.md R103). -/
def State.update (s : State) (b : Byte) (r : Word64) : Word64 :=
  if s.W = 8 then atWidth 8 (s.entryAt (r.setWidth 8 ^^^ b))
  else if s.refout then (r >>> 8) ^^^ atWidth s.W (s.entryAt (r.setWidth 8 ^^^ b))
  else atWidth s.W (r <<< 8) ^^^ atWidth s.W (s.entryAt (r.extractLsb' (s.W - 8) 8 ^^^ b))

/-- `REG <- zext_64(update(b, REG[W-1:0]))` (42_streaming.md R105). -/
def State.foldByte (s : State) (b : Byte) : State :=
  { s with reg := s.update b (atWidth s.W s.reg) }

/-- FEED (42_streaming.md R105). -/
def execFeed (b : Byte) (s : State) : Outcome :=
  match s.feedCheck with
  | some e => raiseCmdError e s
  | none => (s.foldByte b).written

/-- WR.DATA: one check, then every byte in order (42_streaming.md R106). -/
def execWrData (size : Size) (v : Word64) (s : State) : Outcome :=
  match s.feedCheck with
  | some e => raiseCmdError e s
  | none => ((dataBytes size v).foldl State.foldByte s).written

/-- `finalize(REG[W-1:0])`, with no bit reversal in either mode (42_streaming.md R108). -/
def State.finalize (s : State) : Word64 := atWidth s.W s.reg ^^^ atWidth s.W s.xorout

/-- FINAL (42_streaming.md R109). -/
def execFinal (s : State) : Outcome :=
  if s.rvalid then State.written { s with result := s.finalize }
  else raiseCmdError .noReg s

end Sys2Proof.Machine
end

