-- ==== Sys2Proof/Machine/HostAccess.lean ====
section
/-! DEFINITION. The host accesses to the registers and the table window, and the commands NOP and SRST
(43_host_access.md R121 to R141). -/

namespace Sys2Proof.Machine

/-! ### Configuration, status and interrupt enable -/

/-- RD.CFG (43_host_access.md R121). -/
def execRdCfg (s : State) : Outcome := s.return32 s.cfgWord

/-- WR.CFG: every write clears TVALID and RVALID (43_host_access.md R122). -/
def execWrCfg (v : Word32) (s : State) : Outcome :=
  State.written
    { s with
      width := v.extractLsb' 0 2
      refin := v.getLsbD 2
      refout := v.getLsbD 3
      tvalid := false
      rvalid := false }

/-- RD.STATUS (43_host_access.md R123). -/
def execRdStatus (s : State) : Outcome := s.return32 s.statusWord

/-- WR.STATUS: bit 3 clears DONE, bit 4 clears ERR (43_host_access.md R124). -/
def execWrStatus (v : Word32) (s : State) : Outcome :=
  (s.acknowledge (v.getLsbD 3) (v.getLsbD 4)).written

/-- RD.IRQEN (43_host_access.md R125). -/
def execRdIrqen (s : State) : Outcome := s.return32 s.irqenWord

/-- WR.IRQEN (43_host_access.md R126). -/
def execWrIrqen (v : Word32) (s : State) : Outcome :=
  State.written { s with ieDone := v.getLsbD 0, ieErr := v.getLsbD 1 }

/-! ### The parameter registers -/

/-- `POLY <- x`, which makes the table stale (43_host_access.md R129). -/
def State.writePoly (s : State) (x : Word64) : State := { s with poly := x, tvalid := false }

/-- RD.POLY8 (43_host_access.md R128). -/
def execRdPoly8 (s : State) : Outcome := s.return64 s.poly

/-- RD.POLY4 (43_host_access.md R128). -/
def execRdPoly4 (h : Half) (s : State) : Outcome := s.return32 (halfOf h s.poly)

/-- WR.POLY8 (43_host_access.md R129). -/
def execWrPoly8 (v : Word64) (s : State) : Outcome := (s.writePoly v).written

/-- WR.POLY4 (43_host_access.md R129). -/
def execWrPoly4 (h : Half) (v : Word32) (s : State) : Outcome := (s.writePoly (withHalf h s.poly v)).written

/-- RD.INIT8 (43_host_access.md R128). -/
def execRdInit8 (s : State) : Outcome := s.return64 s.init

/-- RD.INIT4 (43_host_access.md R128). -/
def execRdInit4 (h : Half) (s : State) : Outcome := s.return32 (halfOf h s.init)

/-- WR.INIT8 (43_host_access.md R130). -/
def execWrInit8 (v : Word64) (s : State) : Outcome := State.written { s with init := v }

/-- WR.INIT4 (43_host_access.md R130). -/
def execWrInit4 (h : Half) (v : Word32) (s : State) : Outcome :=
  State.written { s with init := withHalf h s.init v }

/-- RD.XOROUT8 (43_host_access.md R128). -/
def execRdXorout8 (s : State) : Outcome := s.return64 s.xorout

/-- RD.XOROUT4 (43_host_access.md R128). -/
def execRdXorout4 (h : Half) (s : State) : Outcome := s.return32 (halfOf h s.xorout)

/-- WR.XOROUT8 (43_host_access.md R131). -/
def execWrXorout8 (v : Word64) (s : State) : Outcome := State.written { s with xorout := v }

/-- WR.XOROUT4 (43_host_access.md R131). -/
def execWrXorout4 (h : Half) (v : Word32) (s : State) : Outcome :=
  State.written { s with xorout := withHalf h s.xorout v }

/-! ### The accumulator and the result -/

/-- `REG <- x & mask(W)`, which makes REG a valid register (43_host_access.md R135). -/
def State.writeCrc (s : State) (x : Word64) : State := { s with reg := atWidth s.W x, rvalid := true }

/-- RD.CRC8 (43_host_access.md R134). -/
def execRdCrc8 (s : State) : Outcome := s.return64 s.reg

/-- RD.CRC4 (43_host_access.md R134). -/
def execRdCrc4 (h : Half) (s : State) : Outcome := s.return32 (halfOf h s.reg)

/-- WR.CRC8 (43_host_access.md R135). -/
def execWrCrc8 (v : Word64) (s : State) : Outcome := (s.writeCrc v).written

/-- WR.CRC4 (43_host_access.md R135). -/
def execWrCrc4 (h : Half) (v : Word32) (s : State) : Outcome := (s.writeCrc (withHalf h s.reg v)).written

/-- RD.RESULT8 (43_host_access.md R136). -/
def execRdResult8 (s : State) : Outcome := s.return64 s.result

/-- RD.RESULT4 (43_host_access.md R136). -/
def execRdResult4 (h : Half) (s : State) : Outcome := s.return32 (halfOf h s.result)

/-! ### The bit-reversal operand -/

/-- RD.REVIN8 (43_host_access.md R137). -/
def execRdRevin8 (s : State) : Outcome := s.return64 s.revin

/-- RD.REVIN4 (43_host_access.md R137). -/
def execRdRevin4 (h : Half) (s : State) : Outcome := s.return32 (halfOf h s.revin)

/-- WR.REVIN8 (43_host_access.md R138). -/
def execWrRevin8 (v : Word64) (s : State) : Outcome := State.written { s with revin := v }

/-- WR.REVIN4 (43_host_access.md R138). -/
def execWrRevin4 (h : Half) (v : Word32) (s : State) : Outcome :=
  State.written { s with revin := withHalf h s.revin v }

/-! ### The table window -/

/-- RD.TABLE8, whatever TVALID is (43_host_access.md R139). -/
def execRdTable8 (i : Byte) (s : State) : Outcome := s.return64 (s.entryAt i)

/-- RD.TABLE4, whatever TVALID is (43_host_access.md R139). -/
def execRdTable4 (i : Byte) (h : Half) (s : State) : Outcome := s.return32 (halfOf h (s.entryAt i))

/-! ### NOP and SRST -/

/-- NOP (43_host_access.md R140). -/
def execNop (s : State) : Outcome := s.written

/-- The soft reset: everything but BUSY, which is 0 already, and T (43_host_access.md R141). -/
def State.softReset (s : State) : State :=
  { s with
    width := 0
    refin := false
    refout := false
    tvalid := false
    rvalid := false
    done := false
    err := 0
    ieDone := false
    ieErr := false
    poly := 0
    init := 0
    xorout := 0
    reg := 0
    result := 0
    revin := 0
    bidx := 0 }

/-- SRST (43_host_access.md R141). -/
def execSrst (s : State) : Outcome := s.softReset.written

end Sys2Proof.Machine
end

