-- ==== Sys2Proof/Machine/Command.lean ====
section
/-! DEFINITION. WR.CMD: the write that carries a command word (43_host_access.md R127). -/

namespace Sys2Proof.Machine

/-- WR.CMD: an illegal word raises ILLCMD, a legal one runs its command whole inside the access
(43_host_access.md R127). `decodeCmd` answers commands only; its arm for any other instruction is never taken and
is treated as an illegal word. -/
def execWrCmd (c : Word32) (s : State) : Outcome :=
  match decodeCmd c with
  | some .nop => execNop s
  | some .build => execBuild s
  | some .start => execStart s
  | some (.feed b) => execFeed b s
  | some .final => execFinal s
  | some .srst => execSrst s
  | _ => raiseCmdError .illCmd s

end Sys2Proof.Machine
end

