-- ==== Sys2Proof/Machine/Dispatch.lean ====
section
/-! DEFINITION. The dispatch: one arm per instruction, each one call of its meaning. -/

namespace Sys2Proof.Machine

/-- The effect of an instruction: the rule of its row in spec/opcode_table.json, performed whole. The BUSY hold comes
before it, in the step (43_host_access.md R120, assumption 9). -/
def exec (i : Instr) (s : State) : Host.Outcome State Fault Refusal :=
  match i with
  | .rdCfg => Sys2Proof.Machine.execRdCfg s
  | .wrCfg v => Sys2Proof.Machine.execWrCfg v s
  | .rdStatus => Sys2Proof.Machine.execRdStatus s
  | .wrStatus v => Sys2Proof.Machine.execWrStatus v s
  | .rdIrqen => Sys2Proof.Machine.execRdIrqen s
  | .wrIrqen v => Sys2Proof.Machine.execWrIrqen v s
  | .wrCmd c => Sys2Proof.Machine.execWrCmd c s
  | .rdPoly8 => Sys2Proof.Machine.execRdPoly8 s
  | .rdPoly4 h => Sys2Proof.Machine.execRdPoly4 h s
  | .wrPoly8 v => Sys2Proof.Machine.execWrPoly8 v s
  | .wrPoly4 h v => Sys2Proof.Machine.execWrPoly4 h v s
  | .rdInit8 => Sys2Proof.Machine.execRdInit8 s
  | .rdInit4 h => Sys2Proof.Machine.execRdInit4 h s
  | .wrInit8 v => Sys2Proof.Machine.execWrInit8 v s
  | .wrInit4 h v => Sys2Proof.Machine.execWrInit4 h v s
  | .rdXorout8 => Sys2Proof.Machine.execRdXorout8 s
  | .rdXorout4 h => Sys2Proof.Machine.execRdXorout4 h s
  | .wrXorout8 v => Sys2Proof.Machine.execWrXorout8 v s
  | .wrXorout4 h v => Sys2Proof.Machine.execWrXorout4 h v s
  | .rdCrc8 => Sys2Proof.Machine.execRdCrc8 s
  | .rdCrc4 h => Sys2Proof.Machine.execRdCrc4 h s
  | .wrCrc8 v => Sys2Proof.Machine.execWrCrc8 v s
  | .wrCrc4 h v => Sys2Proof.Machine.execWrCrc4 h v s
  | .rdResult8 => Sys2Proof.Machine.execRdResult8 s
  | .rdResult4 h => Sys2Proof.Machine.execRdResult4 h s
  | .rdRevin8 => Sys2Proof.Machine.execRdRevin8 s
  | .rdRevin4 h => Sys2Proof.Machine.execRdRevin4 h s
  | .wrRevin8 v => Sys2Proof.Machine.execWrRevin8 v s
  | .wrRevin4 h v => Sys2Proof.Machine.execWrRevin4 h v s
  | .rdRevout8 => Sys2Proof.Machine.execRdRevout8 s
  | .rdRevout4 h => Sys2Proof.Machine.execRdRevout4 h s
  | .wrData size v => Sys2Proof.Machine.execWrData size v s
  | .rdTable8 k => Sys2Proof.Machine.execRdTable8 k s
  | .rdTable4 k h => Sys2Proof.Machine.execRdTable4 k h s
  | .nop => Sys2Proof.Machine.execNop s
  | .build => Sys2Proof.Machine.execBuild s
  | .start => Sys2Proof.Machine.execStart s
  | .feed b => Sys2Proof.Machine.execFeed b s
  | .final => Sys2Proof.Machine.execFinal s
  | .srst => Sys2Proof.Machine.execSrst s

end Sys2Proof.Machine
end

