-- ==== Sys2Proof/Machine/Port.lean ====
section
/-! DEFINITION. One turn of CRCE: the reset input (70_reset_and_hazards.md R170), the host port with the BUSY hold
(43_host_access.md R120, 70_reset_and_hazards.md R180), and the builder agent (00_scope.md R9). -/

namespace Sys2Proof.Machine

/-- An access is accepted and performed: the bus error of an illegal one, the rule of a legal one
(43_host_access.md R120). -/
def performAccess (a : Access) (s : State) : Outcome :=
  match decodeBus a with
  | .ok i => exec i s
  | .error r => raiseBusError r s

/-- A turn in which no access is accepted: the builder moves if it runs, and otherwise nothing happens
(00_scope.md R9, assumption 15). -/
def State.builderTurn (s : State) : State := if s.busy then s.builderStep else s

/-- The access is held: CRCE is building and the access is not a STATUS read (70_reset_and_hazards.md R180). -/
def State.holds (s : State) (a : Access) : Bool := s.busy && !a.isStatusRead

/-- A turn with the reset input deasserted. A held access stays offered and the builder moves; an accepted access
leaves the port (43_host_access.md R120). -/
def portTurn (s : State) : Outcome :=
  match s.port with
  | [] => .next s.builderTurn
  | .idle :: rest => .next (State.builderTurn { s with port := rest })
  | .access a :: rest =>
    if s.holds a then .next s.builderTurn else performAccess a { s with port := rest }

/-- One turn. While the reset input is asserted the state takes its reset values, and an access that is held or
offered is dropped with no response (70_reset_and_hazards.md R170, R171, assumption 3). -/
def turn (s : State) : Outcome :=
  match s.resetLine with
  | [] => portTurn s
  | false :: rest => portTurn { s with resetLine := rest }
  | true :: rest => .next (State.hwReset { s with port := s.port.tail, resetLine := rest })

/-- The next turn offers exactly the access `a`, and accepts it: the reset input is low in that turn, and no build
holds the access. Nothing else changes. -/
def State.offerNow (s : State) (a : Access) : State :=
  { s with
    port := .access a :: s.port
    resetLine := false :: s.resetLine
    busy := s.busy && a.isStatusRead }

end Sys2Proof.Machine
end

