-- ==== Sys2Proof/Machine/Step.lean ====
section
/-! DEFINITION. The step, and the state whose next step runs a given word. -/

namespace Sys2Proof.Machine

/-- One step of CRCE is one turn of its agents: the reset input, the host port, the builder (00_scope.md R9). -/
def step (s : State) : Host.Outcome State Fault Refusal := turn s

/-- `s` with the instruction whose bits are `w`, numbered as spec/opcode_table.json numbers them, offered on the host
port, so that the next step runs it. CRCE fetches no instruction (10_state.md R27): the host issues it as an
access (assumption 8). -/
def State.withFetchWord (s : State) (nbits w : Nat) : State := s.offerNow (codeOfTable nbits w).access

end Sys2Proof.Machine
end

