-- ==== Sys2Proof/Machine/Window.lean ====
section
/-! DEFINITION. The host's side of the port: the register window at `BASE` (20_memory.md R40, R41). -/

namespace Sys2Proof.Machine

/-- `off = a - BASE` of a host address inside the window; `none` for an address that does not reach CRCE
(20_memory.md R40). -/
def windowOffset (a : Nat) : Option Offset :=
  if Config.base ≤ a ∧ a < Config.base + Config.windowBytes then some (BitVec.ofNat 12 (a - Config.base))
  else none

/-- The access with which the host reaches CRCE at address `a` (20_memory.md R41, 30_encoding.md R61). -/
def windowAccess (write : Bool) (a : Nat) (size : Size) (v : Word64) : Option Access :=
  (windowOffset a).map fun off => ⟨descOf write size off, if write then dataOfSize size v else 0⟩

/-- The host issues an access after those it has issued already; one outside the window does not reach CRCE
(20_memory.md R40, R51). -/
def State.issue (s : State) (access : Option Access) : State :=
  match access with
  | some a => { s with port := s.port ++ [.access a] }
  | none => s

/-- The host issues `MemRead(a, size)` (00_scope.md R8). -/
def State.memRead (s : State) (a : Nat) (size : Size) : State := s.issue (windowAccess false a size 0)

/-- The host issues `MemWrite(a, size, v)` (00_scope.md R8). -/
def State.memWrite (s : State) (a : Nat) (size : Size) (v : Word64) : State :=
  s.issue (windowAccess true a size v)

end Sys2Proof.Machine
end

