-- ==== Sys2Proof/Machine/Script.lean ====
section
/-! DEFINITION. The host script (30_encoding.md R72) and the expansion of its pseudo-instructions (R73). -/

namespace Sys2Proof.Machine

/-- `<loc>` of a script line (30_encoding.md R72). -/
inductive Loc where
  | reg32 (r : Reg32)
  | reg64 (r : Reg64)
  /-- `<64-bit name>.lo` or `.hi`. -/
  | reg64Half (r : Reg64) (h : Half)
  | data
  | table (i : Byte)
  /-- `TABLE[i].lo` or `.hi`. -/
  | tableHalf (i : Byte) (h : Half)
deriving DecidableEq, Repr

/-- The offset of a 32-bit register (30_encoding.md R62). -/
def reg32Off : Reg32 → Offset
  | .cfg => 0x000
  | .status => 0x004
  | .irqen => 0x008
  | .cmd => 0x00C

/-- The offset of a 64-bit register (30_encoding.md R62). -/
def reg64Off : Reg64 → Offset
  | .poly => 0x010
  | .init => 0x018
  | .xorout => 0x020
  | .crc => 0x028
  | .result => 0x030
  | .revin => 0x040
  | .revout => 0x048

/-- The offset a location names (30_encoding.md R72). -/
def locOff : Loc → Offset
  | .reg32 r => reg32Off r
  | .reg64 r => reg64Off r
  | .reg64Half r h => halfOff (reg64Off r) h
  | .data => 0x038
  | .table i => entryOff i
  | .tableHalf i h => halfOff (entryOff i) h

/-- `.lo` and `.hi` require `<s>` = w (30_encoding.md R72). -/
def locAccepts (loc : Loc) (size : Size) : Bool :=
  match loc with
  | .reg64Half _ _ | .tableHalf _ _ => size == .four
  | .reg32 _ | .reg64 _ | .data | .table _ => true

/-- The line `rd.<s> <loc>`; the access may be illegal, its bus error is part of a script (30_encoding.md R72). -/
def scriptRead (size : Size) (loc : Loc) : Option Access :=
  if locAccepts loc size then some ⟨descOf false size (locOff loc), 0⟩ else none

/-- The line `wr.<s> <loc>, v` (30_encoding.md R72). -/
def scriptWrite (size : Size) (loc : Loc) (v : Word64) : Option Access :=
  if locAccepts loc size then some ⟨descOf true size (locOff loc), dataOfSize size v⟩ else none

/-- A write to CMD of a command word: the expansion of `cmd` (30_encoding.md R73). -/
def cmdLine (c : Word32) : Access := (Code.cmd c).access

/-- `feed.<s> v`: a write to DATA (30_encoding.md R73). -/
def feedLine (size : Size) (v : Word64) : Access := ⟨descOf true size 0x038, dataOfSize size v⟩

/-- Bytes assembled little-endian into the low bytes of a value (20_memory.md R42). -/
def littleEndian : List Byte → Word64
  | [] => 0
  | b :: rest => (littleEndian rest <<< 8) ||| b.setWidth 64

/-- The fewer than 8 bytes that `feed.str` ends with: at most one each of `wr.w`, `wr.h`, `wr.b` (30_encoding.md R73). -/
def feedTail (bs : List Byte) : List Access :=
  let w := if 4 ≤ bs.length then [feedLine .four (littleEndian (bs.take 4))] else []
  let bs := if 4 ≤ bs.length then bs.drop 4 else bs
  let h := if 2 ≤ bs.length then [feedLine .two (littleEndian (bs.take 2))] else []
  let bs := if 2 ≤ bs.length then bs.drop 2 else bs
  let b := if 1 ≤ bs.length then [feedLine .one (littleEndian (bs.take 1))] else []
  w ++ h ++ b

/-- `feed.str`: `wr.d` for each whole group of 8 bytes, then the rest (30_encoding.md R73). -/
def feedStr : List Byte → List Access
  | b0 :: b1 :: b2 :: b3 :: b4 :: b5 :: b6 :: b7 :: rest =>
    feedLine .eight (littleEndian [b0, b1, b2, b3, b4, b5, b6, b7]) :: feedStr rest
  | rest => feedTail rest

/-- The pseudo-instructions (30_encoding.md R73). The loop of `wait` is the host's; `waitPoll` is the read it
repeats (assumption 16). -/
inductive Pseudo where
  | cmdNop
  | cmdBuild
  | cmdStart
  | cmdFeed (b : Byte)
  | cmdFinal
  | cmdSrst
  | feed (size : Size) (v : Word64)
  | feedStr (text : List Byte)
  | clrdone
  | clrerr
  | waitPoll
  | setcfg (width : BitVec 2) (reflected : Bool)
deriving DecidableEq, Repr

/-- The accesses a pseudo-instruction expands to (30_encoding.md R73). -/
def Pseudo.expand : Pseudo → List Access
  | .cmdNop => [cmdLine 0x0]
  | .cmdBuild => [cmdLine 0x1]
  | .cmdStart => [cmdLine 0x2]
  | .cmdFeed b => [cmdLine ((b.setWidth 32 <<< 8) ||| 0x3)]
  | .cmdFinal => [cmdLine 0x4]
  | .cmdSrst => [cmdLine 0x5]
  | .feed size v => [feedLine size v]
  | .feedStr text => Machine.feedStr text
  | .clrdone => [⟨descOf true .four 0x004, 0x8⟩]
  | .clrerr => [⟨descOf true .four 0x004, 0x10⟩]
  | .waitPoll => [⟨descOf false .four 0x004, 0⟩]
  | .setcfg width reflected =>
    [⟨descOf true .four 0x000,
      (BitVec.ofBool reflected ++ BitVec.ofBool reflected ++ width : BitVec (1 + 1 + 2)).setWidth 64⟩]

end Sys2Proof.Machine
end

