-- ==== Sys2Proof/Safety.lean ====
section
/-! DEFINITION. What the claims are stated in: the invariant of CRCE, runs of instructions, the host sequence of a
checksum (42_streaming.md R110) and the bit-serial reference algorithm (R113). -/

namespace Sys2Proof.Machine

/-- The table entries below the builder's index, or all of them, are those of the current CFG and POLY. -/
def State.TableBuilt (s : State) (n : Nat) : Prop := ∀ i : Byte, i.toNat < n → s.entryAt i = s.entryFor i

/-- The invariant of CRCE: table currency, register validity and the builder's bookkeeping (10_state.md R20 to R22),
and the error codes that occur (60_exceptions.md R151). -/
structure State.Inv (s : State) : Prop where
  /-- R20: a valid table is the table of the current W, POLY and REFIN. -/
  table_current : s.tvalid = true → s.TableBuilt 256
  /-- R20: a valid table belongs to a coupled configuration. -/
  table_coupled : s.tvalid = true → s.refin = s.refout
  /-- R94: the entries the builder has passed are built. -/
  build_partial : s.busy = true → s.TableBuilt s.bidx.toNat
  /-- R90: a build runs under a coupled configuration only. -/
  build_coupled : s.busy = true → s.refin = s.refout
  /-- R90: the table is not valid while it is built. -/
  build_invalid : s.busy = true → s.tvalid = false
  /-- R22: 0 ≤ BIDX ≤ 256. -/
  bidx_le : s.bidx.toNat ≤ 256
  /-- R94: BIDX rests at 0. -/
  bidx_rest : s.busy = false → s.bidx = 0
  /-- R21: a valid register is below 2^W. -/
  reg_lt : s.rvalid = true → s.reg.toNat < 2 ^ s.W
  /-- R151: the codes 5 to 7 are never produced. -/
  err_le : s.err.toNat ≤ 4

/-- Instructions performed one after another, stopping where one does not answer a next state. -/
def execAll : List Instr → State → Outcome
  | [], s => .next s
  | i :: rest, s =>
    match exec i s with
    | .next t => execAll rest t
    | .fault f => .fault f
    | .refused r => .refused r

/-- The bytes of a message, each a FEED (42_streaming.md R107). -/
def feeds (data : List Byte) : List Instr := data.map Instr.feed

/-- The read forms of spec/opcode_table.json (20_memory.md R48). -/
def isRead : Instr → Bool
  | .rdCfg | .rdStatus | .rdIrqen | .rdPoly8 | .rdPoly4 _ | .rdInit8 | .rdInit4 _ | .rdXorout8 | .rdXorout4 _ => true
  | .rdCrc8 | .rdCrc4 _ | .rdResult8 | .rdResult4 _ | .rdRevin8 | .rdRevin4 _ | .rdRevout8 | .rdRevout4 _ => true
  | .rdTable8 _ | .rdTable4 _ _ => true
  | .wrCfg _ | .wrStatus _ | .wrIrqen _ | .wrCmd _ | .wrPoly8 _ | .wrPoly4 _ _ | .wrInit8 _ | .wrInit4 _ _ => false
  | .wrXorout8 _ | .wrXorout4 _ _ | .wrCrc8 _ | .wrCrc4 _ _ | .wrRevin8 _ | .wrRevin4 _ _ | .wrData _ _ => false
  | .nop | .build | .start | .feed _ | .final | .srst => false

/-- The instruction performs the command `i`: it is the command itself, or the write to CMD of its word
(43_host_access.md R127). -/
def Performs (i cmd : Instr) : Prop := i = cmd ∨ ∃ c, i = .wrCmd c ∧ decodeCmd c = some cmd

/-- The instruction is a FEED, by command word or by DATA write (42_streaming.md R102). -/
def IsFeed (i : Instr) : Prop := (∃ b, Performs i (.feed b)) ∨ ∃ size v, i = .wrData size v

/-- The instruction raises the command error with this code: the table of 60_exceptions.md R151, with the order of
R153 between NOTABLE and NOREG. -/
def Raises (i : Instr) (s : State) (code : BitVec 3) : Prop :=
  (code = 1 ∧ ∃ c, i = .wrCmd c ∧ decodeCmd c = none) ∨
  (code = 2 ∧ s.refin ≠ s.refout ∧ (Performs i .build ∨ Performs i .start)) ∨
  (code = 3 ∧ s.tvalid = false ∧ IsFeed i) ∨
  (code = 4 ∧ s.rvalid = false ∧ ((s.tvalid = true ∧ IsFeed i) ∨ Performs i .final))

/-- The next step performs the instruction `i`: the reset input is low, and an access that decodes to `i` is offered
(43_host_access.md R120). -/
def State.Accesses (s : State) (i : Instr) : Prop :=
  s.resetLine.head? ≠ some true ∧ ∃ a, s.port.head? = some (.access a) ∧ decodeBus a = .ok i

/-- One bit of the reference algorithm (42_streaming.md R113). -/
def refBit (W : Nat) (p c : Word64) : Word64 :=
  if c.getLsbD (W - 1) then ((c <<< 1) ^^^ p) &&& mask W else (c <<< 1) &&& mask W

/-- One byte of the reference algorithm (42_streaming.md R113). -/
def refByte (W : Nat) (p : Word64) (refl : Bool) (c : Word64) (b : Byte) : Word64 :=
  (refBit W p)^[8] (c ^^^ ((if refl then b.reverse else b).setWidth 64 <<< (W - 8)))

/-- `ref_crc`: the bit-serial CRC of a byte sequence (42_streaming.md R113). -/
def refCrc (W : Nat) (p init : Word64) (refl : Bool) (xo : Word64) (data : List Byte) : Word64 :=
  let c := data.foldl (refByte W (atWidth W p) refl) (atWidth W init)
  (if refl then rev W c else c) ^^^ atWidth W xo

/-- The accesses with which a host computes a checksum: CFG, POLY, BUILD, INIT, START, one FEED a byte, XOROUT, FINAL,
and the read of RESULT (42_streaming.md R110, 70_reset_and_hazards.md R174). -/
def crcScript (width : BitVec 2) (refl : Bool) (p init xo : Word64) (data : List Byte) : List Access :=
  Pseudo.expand (.setcfg width refl) ++ [⟨descOf true .eight 0x010, p⟩] ++ Pseudo.expand .cmdBuild ++
    [⟨descOf true .eight 0x018, init⟩] ++ Pseudo.expand .cmdStart ++
    (data.map Pseudo.cmdFeed).flatMap Pseudo.expand ++
    [⟨descOf true .eight 0x020, xo⟩] ++ Pseudo.expand .cmdFinal ++ [⟨descOf false .eight 0x030, 0⟩]

end Sys2Proof.Machine
end

