-- ==== Sys2Proof/Certificates/Slice0/Obligations.lean ====
section
/-! DEFINITION. The statements for the provers. -/

open Sys2Proof Sys2Proof.Machine

/-! ### Encodings -/

/-- 30_encoding.md, formats BUS and CMD: no bit of an encoding is dropped. -/
def Obligations.DecodeOfEncodeIsTheInstruction : Prop :=
  ∀ i : Instr, i.WellFormed → decode (encode i) = .ok i

/-- 30_encoding.md: a code that decodes is, up to the bits that carry nothing, the encoding of what it decodes to. -/
def Obligations.EncodeOfDecodeIsTheCanonicalCode : Prop :=
  ∀ (c : Code) (i : Instr), decode c = .ok i → i.WellFormed ∧ encode i = c.canonical

/-- spec/opcode_table.json: a code decodes to an instruction of the one row whose fixed bits it has, and to none if it
has those of no row. -/
def Obligations.DecodingFollowsTheOpcodeTable : Prop :=
  (∀ (c : Code) (i : Instr), decode c = .ok i → i.opcode.fits c = true) ∧
  (∀ (c : Code) (row : Opcode), row ∈ opcodeTable → row.fits c = true →
    ∃ i, decode c = .ok i ∧ i.opcode = row)

/-- Words written out from 30_encoding.md R61 to R65 decode to the instructions they stand for. -/
def Obligations.WrittenOutWordsDecode : Prop :=
  decode (.bus ⟨0b0_10_0_0000_0000_0100, 0⟩) = .ok .rdStatus ∧
  decode (.bus ⟨0b1_10_0_0000_0001_0100, 0xAAAAAAAA⟩) = .ok (.wrPoly4 .high 0xAAAAAAAA) ∧
  decode (.bus ⟨0b1_01_0_0000_0011_1000, 0x3231⟩) = .ok (.wrData .two 0x3231) ∧
  decode (.bus ⟨0b0_11_0_1_11111111_000, 0⟩) = .ok (.rdTable8 0xFF) ∧
  decode (.cmd 0b0000000000000000_00110001_00000011) = .ok (.feed 0x31) ∧
  decode (.bus ⟨0b1_11_0_0000_0011_0000, 0⟩) = .illegalAccess .ro ∧
  decode (.cmd 0b0000000000000000_00000001_00000110) = .illegalCommand

/-- 30_encoding.md R63 and R70: which accesses are illegal, and for which reason, in the arithmetic of R61. The
offsets 0x039 to 0x03B reach the last line of R63 and are unmapped, though R70's list begins at 0x03C
(assumption 12). -/
def Obligations.IllegalAccessesByReason : Prop :=
  ∀ a : Access,
    let off := a.desc.toNat % 2 ^ 12
    let bit12 := a.desc.toNat / 2 ^ 12 % 2
    let size := 2 ^ (a.desc.toNat / 2 ^ 13 % 4)
    let dir := a.desc.toNat / 2 ^ 15
    let reg32 := off < 0x10 ∧ off % 4 = 0
    let reg64 := (0x10 ≤ off ∧ off < 0x38) ∨ (0x40 ≤ off ∧ off < 0x50)
    let whole := (size = 4 ∨ size = 8) ∧ off % size = 0
    (decodeBus a = .error .unmapped ↔
      bit12 = 1 ∨ (off < 0x10 ∧ off % 4 ≠ 0) ∨ (0x39 ≤ off ∧ off < 0x40) ∨ (0x50 ≤ off ∧ off < 0x800)) ∧
    (decodeBus a = .error .size ↔
      bit12 = 0 ∧ ((reg32 ∧ size ≠ 4) ∨ (reg64 ∧ ¬ whole) ∨ (0x800 ≤ off ∧ dir = 0 ∧ ¬ whole))) ∧
    (decodeBus a = .error .ro ↔
      bit12 = 0 ∧ dir = 1 ∧
        (0x800 ≤ off ∨ (((0x30 ≤ off ∧ off < 0x38) ∨ (0x48 ≤ off ∧ off < 0x50)) ∧ whole))) ∧
    (decodeBus a = .error .wo ↔ bit12 = 0 ∧ dir = 0 ∧ (off = 0x38 ∨ (off = 0x0C ∧ size = 4)))

/-- 30_encoding.md R69: an illegal command word is accepted on the bus and raises ILLCMD, with no other effect; the
other words are commands. -/
def Obligations.IllegalCommandWordRaisesIllcmd : Prop :=
  ∀ (c : Word32) (s : State),
    (6 ≤ c.toNat % 2 ^ 8 ∨ 2 ^ 16 ≤ c.toNat ∨ (c.toNat / 2 ^ 8 % 2 ^ 8 ≠ 0 ∧ c.toNat % 2 ^ 8 ≠ 3) →
      exec (.wrCmd c) s = .next { s with err := if s.err = 0 then 1 else s.err, resp := some .written }) ∧
    (¬ (6 ≤ c.toNat % 2 ^ 8 ∨ 2 ^ 16 ≤ c.toNat ∨ (c.toNat / 2 ^ 8 % 2 ^ 8 ≠ 0 ∧ c.toNat % 2 ^ 8 ≠ 3)) →
      ∃ i, decodeCmd c = some i)

/-! ### Reset, the port and the builder -/

/-- 10_state.md R29: every register and flag is 0 after a hardware reset, and after SRST, which leaves T alone. -/
def Obligations.ResetAndSoftResetValues : Prop :=
  (let r := State.reset
   r.width = 0 ∧ r.refin = false ∧ r.refout = false ∧ r.busy = false ∧ r.tvalid = false ∧ r.rvalid = false ∧
   r.done = false ∧ r.err = 0 ∧ r.ieDone = false ∧ r.ieErr = false ∧ r.poly = 0 ∧ r.init = 0 ∧ r.xorout = 0 ∧
   r.reg = 0 ∧ r.result = 0 ∧ r.revin = 0 ∧ r.bidx = 0 ∧ r.irq = false) ∧
  (∀ s : State, s.busy = false →
    exec .srst s = .next
      { State.reset with
        table := s.table
        resp := some .written
        port := s.port
        resetLine := s.resetLine
        resets := s.resets })

/-- 43_host_access.md R120: in a turn with reset low, an access that is not held leaves the port and is performed:
the instruction it decodes to runs, whatever it is. -/
def Obligations.StepRunsTheDecodedInstruction : Prop :=
  ∀ (s : State) (a : Access) (rest : List Offer) (i : Instr),
    s.port = .access a :: rest → s.resetLine.head? ≠ some true → (s.busy = false ∨ a.desc = 0x4004) →
    decodeBus a = .ok i →
    step s = exec i { s with port := rest, resetLine := s.resetLine.tail }

/-- The numbering of spec/opcode_table.json: the next step runs the instruction that the decoder reads from a row's
bits, a command word by the write to CMD that carries it (assumption 8). -/
def Obligations.StepRunsTheTableWord : Prop :=
  ∀ (s : State) (nbits w : Nat) (i : Instr), nbits = 16 ∨ nbits = 32 → decodeTableWord nbits w = some i →
    step (s.withFetchWord nbits w) = exec i { s with busy := s.busy && decide (i = .rdStatus) }

/-- 60_exceptions.md R155: an illegal access that is not held gets a bus error and changes no state. -/
def Obligations.IllegalAccessGetsABusError : Prop :=
  ∀ (s : State) (a : Access) (rest : List Offer) (r : BusError),
    s.port = .access a :: rest → s.resetLine.head? ≠ some true → s.busy = false → decodeBus a = .error r →
    step s = .next { s with port := rest, resetLine := s.resetLine.tail, resp := some (.busError r) }

/-- 70_reset_and_hazards.md R180: while BUSY = 1 every access but a 4-byte read of STATUS at 0x004 is held: it stays
offered, it has no effect and gets no response, the hold ends, and with BUSY = 0 the access is performed. A STATUS
read is answered at once. The model's own choices in it: that the turn of a held access is one builder step, so that
the hold lasts `257 - BIDX` turns (assumption 2); the builder step of a BIDX above 256, which no run reaches
(assumption 18); and that a descriptor with bit 12 set, such as 0x5004, is held (assumption 10). -/
def Obligations.BusyHoldsTheAccess : Prop :=
  ∀ (s : State) (a : Access) (rest : List Offer),
    s.port = .access a :: rest → s.resetLine.head? ≠ some true →
    (s.busy = true → a.desc ≠ 0x4004 →
      (let t := State.builderStep { s with resetLine := s.resetLine.tail }
       step s = .next t ∧ t.port = s.port ∧ t.resp = s.resp ∧
       (s.bidx.toNat ≤ 256 → t.bidx = if s.bidx.toNat < 256 then s.bidx + 1 else 0) ∧
       t = { s with
             table := t.table, bidx := t.bidx, busy := t.busy, tvalid := t.tvalid, done := t.done
             resetLine := s.resetLine.tail }) ∧
      (true ∉ s.resetLine →
        ∃ t, Host.Core.run Sys2Proof.core (257 - min s.bidx.toNat 256) s = .next t ∧
          t.busy = false ∧ t.tvalid = true ∧ t.done = true ∧ t.port = s.port ∧ t.resp = s.resp)) ∧
    (s.busy = true → a.desc = 0x4004 →
      step s = exec .rdStatus { s with port := rest, resetLine := s.resetLine.tail }) ∧
    (s.busy = false → step s = performAccess a { s with port := rest, resetLine := s.resetLine.tail })

/-- 41_table_builder.md R94: one builder step, in every turn in which no access is accepted: nothing is offered, an
idle turn is offered, or a held access, which stays offered. That such a turn is a builder step is the model's
schedule (assumption 2). -/
def Obligations.BuilderWritesTheNextEntry : Prop :=
  ∀ (s : State) (port : List Offer), s.resetLine.head? ≠ some true → s.busy = true →
    (s.port = [] ∧ port = []) ∨ s.port = .idle :: port ∨
      (port = s.port ∧ ∃ a rest, s.port = .access a :: rest ∧ a.desc ≠ 0x4004) →
    (∀ h : s.bidx.toNat < 256,
      step s = .next
        { s with
          table := s.table.set s.bidx.toNat
            (entry s.W (atWidth s.W s.poly) s.refin (BitVec.ofNat 8 s.bidx.toNat))
          bidx := BitVec.ofNat 9 (s.bidx.toNat + 1)
          port := port
          resetLine := s.resetLine.tail }) ∧
    (s.bidx.toNat = 256 →
      step s = .next
        { s with
          busy := false
          tvalid := true
          done := true
          bidx := 0
          port := port
          resetLine := s.resetLine.tail })

/-- 00_scope.md R9: with reset low, no access offered and no build, nothing changes but the inputs consumed. -/
def Obligations.IdleTurnChangesNothing : Prop :=
  ∀ s : State, s.resetLine.head? ≠ some true → s.busy = false → (s.port = [] ∨ s.port.head? = some .idle) →
    step s = .next { s with port := s.port.tail, resetLine := s.resetLine.tail }

/-- 70_reset_and_hazards.md R170: with reset asserted, every piece of state takes its reset value, T a new free value,
a build is abandoned and a held access is dropped unanswered. The model's own choices in it: that an access merely
offered in that turn is dropped too, which R171 and 93_implementation_defined.md I6 leave to the host, that the turn
consumes one offer, and that the last response is forgotten (assumption 3); and the count of resets, which selects
the free value (assumption 4). -/
def Obligations.HardwareResetRestoresTheResetState : Prop :=
  ∀ (s : State) (rest : List Bool), s.resetLine = true :: rest →
    step s = .next
      { State.reset with
        table := tableOfReset s.resets
        resets := s.resets + 1
        port := s.port.tail
        resetLine := rest }

/-- 70_reset_and_hazards.md R181: a build ends, however the host behaves, unless reset is asserted. The bound of 257
steps and one more for each offer is the model's: it counts the turns of the model's schedule (assumption 2), not
clock cycles, where R181 speaks of 257 builder steps; a BIDX above 256, which no run reaches, ends the build at once
(assumption 18). -/
def Obligations.EveryBuildCompletes : Prop :=
  ∀ s : State, s.busy = true → true ∉ s.resetLine →
    ∃ k t, k ≤ 257 + s.port.length ∧ Host.Core.run Sys2Proof.core k s = .next t ∧
      t.busy = false ∧ t.tvalid = true ∧ t.done = true

/-- 20_memory.md R51, 10_state.md R22: to a host whose next access is held, BUILD is one atomic event: after its 257
builder steps all 256 entries are those of R91, and nothing else has changed. That 257 steps of the model are those
257 builder steps, when nothing or a held access is offered, is the model's schedule (assumption 2). -/
def Obligations.BuildIsAtomicToTheHost : Prop :=
  ∀ s s1 : State, s.refin = s.refout → s.resetLine = [] →
    (s.port = [] ∨ ∃ a rest, s.port = .access a :: rest ∧ a.desc ≠ 0x4004) →
    exec .build s = .next s1 →
    ∃ t, Host.Core.run Sys2Proof.core 257 s1 = .next t ∧
      t = { s with
            table := t.table, busy := false, tvalid := true, done := true, bidx := 0
            resp := some .written } ∧
      ∀ i : Byte, t.entryAt i = entry s.W (atWidth s.W s.poly) s.refin i

/-- No step of CRCE ends in a fault or a refusal (60_exceptions.md R159: CRCE has no trap; assumption 14). -/
def Obligations.EveryStepGoesOn : Prop := ∀ s : State, ∃ t, step s = .next t

/-- The invariant holds after reset. -/
def Obligations.ResetMeetsTheInvariant : Prop := State.reset.Inv

/-- 10_state.md R20 to R22: every step keeps table currency, register validity, the builder's bookkeeping and the
range of the error codes. -/
def Obligations.EveryStepKeepsTheInvariant : Prop :=
  ∀ s t : State, s.Inv → step s = .next t → t.Inv

/-! ### Rules about every instruction -/

/-- 41_table_builder.md R95: only the builder writes T (and the hardware reset, which gives it `TABLE_RESET`): no host
access, no command and no SRST does, and the host reads T through RD.TABLE. No instruction touches the inputs. -/
def Obligations.OnlyTheBuilderWritesTheTable : Prop :=
  (∀ (i : Instr) (s t : State), exec i s = .next t →
    t.table = s.table ∧ t.port = s.port ∧ t.resetLine = s.resetLine ∧ t.resets = s.resets) ∧
  (∀ s t : State, step s = .next t → t.table ≠ s.table →
    s.resetLine.head? = some true ∨
    (s.busy = true ∧ s.bidx.toNat < 256 ∧ ∀ i : Byte, i.toNat ≠ s.bidx.toNat → t.entryAt i = s.entryAt i)) ∧
  (∀ (s : State) (i : Byte),
    exec (.rdTable8 i) s = .next { s with resp := some (.word64 (s.table[i.toNat]'i.isLt)) })

/-- 20_memory.md R48: no read changes state; it only answers. -/
def Obligations.ReadsHaveNoSideEffect : Prop :=
  ∀ (i : Instr) (s : State), isRead i = true → ∃ r, exec i s = .next { s with resp := some r }

/-- 60_exceptions.md R150, R154: an operation that raises a command error records it if none is recorded, and writes
nothing else. -/
def Obligations.RaisedErrorChangesOnlyErr : Prop :=
  ∀ (i : Instr) (s : State) (code : BitVec 3), Raises i s code →
    exec i s = .next { s with err := if s.err = 0 then code else s.err, resp := some .written }

/-- 10_state.md R24: ERR is written only by a command error when it is 0, and set to 0 by a STATUS write with bit 4, by
SRST and by reset. -/
def Obligations.ErrKeepsTheFirstError : Prop :=
  (∀ s t : State, step s = .next t → t.err ≠ s.err →
    (s.resetLine.head? = some true ∧ t.err = 0) ∨
    ∃ i, s.Accesses i ∧
      ((s.err = 0 ∧ Raises i s t.err) ∨
        (t.err = 0 ∧ ((∃ v : Word32, i = .wrStatus v ∧ v.toNat / 2 ^ 4 % 2 = 1) ∨ Performs i .srst)))) ∧
  (∀ (i : Instr) (s : State), ((∃ v : Word32, i = .wrStatus v ∧ v.toNat / 2 ^ 4 % 2 = 1) ∨ Performs i .srst) →
    ∃ t, exec i s = .next t ∧ t.err = 0) ∧
  (∀ s : State, s.resetLine.head? = some true → ∃ t, step s = .next t ∧ t.err = 0)

/-- 60_exceptions.md R151: with no error recorded, an operation records a code exactly for the cause the table gives;
the codes 5 to 7 are never produced; and with the code nothing else is recorded, no address and no word. -/
def Obligations.CommandErrorsByCause : Prop :=
  ∀ (i : Instr) (s t : State), exec i s = .next t → s.err = 0 →
    (∀ code : BitVec 3, code ≠ 0 → (t.err = code ↔ Raises i s code)) ∧ t.err.toNat ≤ 4 ∧
    (t.err ≠ 0 → t = { s with err := t.err, resp := some .written })

/-- 10_state.md R13, R20, R21, R23: exactly which instructions set and clear the bits of STATUS. No instruction sets
TVALID or DONE and none clears BUSY (the builder does). BUILD sets BUSY; CFG writes, POLY writes, BUILD and SRST clear
TVALID; START and CRC writes set RVALID; CFG writes and SRST clear it; a STATUS write with bit 3 and SRST clear
DONE. -/
def Obligations.StatusBitsHaveTheirSources : Prop :=
  ∀ (i : Instr) (s t : State), exec i s = .next t →
    (s.tvalid = false → t.tvalid = false) ∧
    (s.tvalid = true →
      (t.tvalid = false ↔
        (∃ v, i = .wrCfg v) ∨ (∃ v, i = .wrPoly8 v) ∨ (∃ h v, i = .wrPoly4 h v) ∨
          (Performs i .build ∧ s.refin = s.refout) ∨ Performs i .srst)) ∧
    (s.rvalid = false →
      (t.rvalid = true ↔
        (Performs i .start ∧ s.refin = s.refout) ∨ (∃ v, i = .wrCrc8 v) ∨ ∃ h v, i = .wrCrc4 h v)) ∧
    (s.rvalid = true → (t.rvalid = false ↔ (∃ v, i = .wrCfg v) ∨ Performs i .srst)) ∧
    (s.done = false → t.done = false) ∧
    (s.done = true →
      (t.done = false ↔ (∃ v : Word32, i = .wrStatus v ∧ v.toNat / 2 ^ 3 % 2 = 1) ∨ Performs i .srst)) ∧
    (s.busy = false → (t.busy = true ↔ Performs i .build ∧ s.refin = s.refout)) ∧
    (s.busy = true → t.busy = true)

/-- 10_state.md R17: RESULT holds `(REG ^ XOROUT)[W-1:0]` as of the last FINAL; nothing else writes it but reset and
SRST; its reset value is 0. -/
def Obligations.OnlyFinalAndSoftResetWriteResult : Prop :=
  State.reset.result = 0 ∧
  ∀ s t : State, step s = .next t → t.result ≠ s.result →
    (s.resetLine.head? = some true ∧ t.result = 0) ∨
    ∃ i, s.Accesses i ∧
      ((Performs i .final ∧ t.result.toNat = (s.reg.toNat ^^^ s.xorout.toNat) % 2 ^ s.W) ∨
        (Performs i .srst ∧ t.result = 0))

/-! ### Configuration, status and interrupt enable -/

/-- 43_host_access.md R121, R125: what CFG and IRQEN read as. -/
def Obligations.ReadOfCfgAndIrqen : Prop :=
  ∀ s : State,
    (∃ v, exec .rdCfg s = .next { s with resp := some (.word32 v) } ∧
      v.toNat = s.width.toNat + 4 * s.refin.toNat + 8 * s.refout.toNat) ∧
    (∃ v, exec .rdIrqen s = .next { s with resp := some (.word32 v) } ∧
      v.toNat = s.ieDone.toNat + 2 * s.ieErr.toNat)

/-- 43_host_access.md R123, 10_state.md R25: what STATUS reads as, with the level of irq as its bit 11. -/
def Obligations.ReadOfStatus : Prop :=
  ∀ s : State, ∃ v irq, exec .rdStatus s = .next { s with resp := some (.word32 v) } ∧
    (irq = 1 ↔ s.irq = true) ∧ irq < 2 ∧
    (s.irq = true ↔ (s.ieDone = true ∧ s.done = true) ∨ (s.ieErr = true ∧ s.err ≠ 0)) ∧
    v.toNat = s.busy.toNat + 2 * s.tvalid.toNat + 4 * s.rvalid.toNat + 8 * s.done.toNat +
      2 ^ 8 * s.err.toNat + 2 ^ 11 * irq

/-- 43_host_access.md R122: a CFG write stores WIDTH, REFIN and REFOUT and makes table and register stale. -/
def Obligations.WriteOfCfg : Prop :=
  ∀ (v : Word32) (s : State), ∃ t, exec (.wrCfg v) s = .next t ∧
    t.width.toNat = v.toNat % 4 ∧ t.refin.toNat = v.toNat / 4 % 2 ∧ t.refout.toNat = v.toNat / 8 % 2 ∧
    t = { s with
          width := t.width, refin := t.refin, refout := t.refout
          tvalid := false, rvalid := false, resp := some .written }

/-- 43_host_access.md R124: a STATUS write clears DONE by bit 3 and ERR by bit 4, and nothing else. -/
def Obligations.WriteOfStatus : Prop :=
  ∀ (v : Word32) (s : State),
    exec (.wrStatus v) s = .next
      { s with
        done := if v.toNat / 8 % 2 = 1 then false else s.done
        err := if v.toNat / 16 % 2 = 1 then 0 else s.err
        resp := some .written }

/-- 43_host_access.md R126: an IRQEN write stores its two bits, and irq follows at once. -/
def Obligations.WriteOfIrqen : Prop :=
  ∀ (v : Word32) (s : State), ∃ t, exec (.wrIrqen v) s = .next t ∧
    t.ieDone.toNat = v.toNat % 2 ∧ t.ieErr.toNat = v.toNat / 2 % 2 ∧
    t = { s with ieDone := t.ieDone, ieErr := t.ieErr, resp := some .written } ∧
    (t.irq = true ↔ (v.toNat % 2 = 1 ∧ s.done = true) ∨ (v.toNat / 2 % 2 = 1 ∧ s.err ≠ 0))

/-- 43_host_access.md R127: WR.CMD of a legal word is the command it encodes, and every CMD write completes. -/
def Obligations.WriteOfCmdRunsTheCommand : Prop :=
  ∀ (s : State) (c : Word32),
    (∀ i, decodeCmd c = some i → exec (.wrCmd c) s = exec i s) ∧
    exec (.wrCmd 0) s = exec .nop s ∧ exec (.wrCmd 1) s = exec .build s ∧
    exec (.wrCmd 2) s = exec .start s ∧
    (∀ b : Byte, exec (.wrCmd (BitVec.ofNat 32 (2 ^ 8 * b.toNat + 3))) s = exec (.feed b) s) ∧
    exec (.wrCmd 4) s = exec .final s ∧ exec (.wrCmd 5) s = exec .srst s ∧
    ∃ t, exec (.wrCmd c) s = .next t

/-! ### The 64-bit registers and the table window -/

/-- 43_host_access.md R128, R134, R136, R137, R139: an 8-byte read returns all 64 stored bits. -/
def Obligations.EightByteReads : Prop :=
  ∀ s : State,
    exec .rdPoly8 s = .next { s with resp := some (.word64 s.poly) } ∧
    exec .rdInit8 s = .next { s with resp := some (.word64 s.init) } ∧
    exec .rdXorout8 s = .next { s with resp := some (.word64 s.xorout) } ∧
    exec .rdCrc8 s = .next { s with resp := some (.word64 s.reg) } ∧
    exec .rdResult8 s = .next { s with resp := some (.word64 s.result) } ∧
    exec .rdRevin8 s = .next { s with resp := some (.word64 s.revin) } ∧
    ∀ i : Byte, exec (.rdTable8 i) s = .next { s with resp := some (.word64 (s.table[i.toNat]'i.isLt)) }

/-- 20_memory.md R43: a 4-byte read of the low half returns bits 31:0 of the register, of the high half bits 63:32. -/
def Obligations.FourByteReads : Prop :=
  ∀ (s : State) (h : Half) (i : Byte) (n : Instr) (x : Word64),
    (n, x) ∈ [(Instr.rdPoly4 h, s.poly), (.rdInit4 h, s.init), (.rdXorout4 h, s.xorout), (.rdCrc4 h, s.reg),
      (.rdResult4 h, s.result), (.rdRevin4 h, s.revin), (.rdTable4 i h, s.table[i.toNat]'i.isLt)] →
    ∃ v, exec n s = .next { s with resp := some (.word32 v) } ∧
      v.toNat = (if h = .low then x.toNat % 2 ^ 32 else x.toNat / 2 ^ 32)

/-- 30_encoding.md R68: a 4-byte write is the 8-byte write of the merged value, the written half over the register's
old value, with nothing sign-extended. -/
def Obligations.HalfWritesAreMergedWrites : Prop :=
  ∀ (s : State) (h : Half) (v : Word32) (old : Word64) (half : Instr) (whole : Word64 → Instr),
    (half, whole, old) ∈ [(Instr.wrPoly4 h v, Instr.wrPoly8, s.poly), (.wrInit4 h v, .wrInit8, s.init),
      (.wrXorout4 h v, .wrXorout8, s.xorout), (.wrCrc4 h v, .wrCrc8, s.reg), (.wrRevin4 h v, .wrRevin8, s.revin)] →
    ∃ x : Word64, exec half s = exec (whole x) s ∧
      x.toNat = (if h = .high then v.toNat * 2 ^ 32 + old.toNat % 2 ^ 32
        else old.toNat / 2 ^ 32 * 2 ^ 32 + v.toNat)

/-- 43_host_access.md R129, R68: a POLY write, whole or half, stores the merged value and makes the table stale. -/
def Obligations.WriteOfPoly : Prop :=
  ∀ s : State,
    (∀ v, exec (.wrPoly8 v) s = .next { s with poly := v, tvalid := false, resp := some .written }) ∧
    (∀ v : Word32, ∃ x, exec (.wrPoly4 .low v) s =
        .next { s with poly := x, tvalid := false, resp := some .written } ∧
      x.toNat = s.poly.toNat / 2 ^ 32 * 2 ^ 32 + v.toNat) ∧
    (∀ v : Word32, ∃ x, exec (.wrPoly4 .high v) s =
        .next { s with poly := x, tvalid := false, resp := some .written } ∧
      x.toNat = v.toNat * 2 ^ 32 + s.poly.toNat % 2 ^ 32)

/-- 43_host_access.md R130, R131, R138: a write of INIT, XOROUT or REVIN, whole or half, stores the merged value and
does nothing else. -/
def Obligations.WriteOfInitXoroutRevin : Prop :=
  ∀ s : State,
    (∀ v, exec (.wrInit8 v) s = .next { s with init := v, resp := some .written } ∧
      exec (.wrXorout8 v) s = .next { s with xorout := v, resp := some .written } ∧
      exec (.wrRevin8 v) s = .next { s with revin := v, resp := some .written }) ∧
    (∀ (h : Half) (v : Word32),
      (∃ x, exec (.wrInit4 h v) s = .next { s with init := x, resp := some .written } ∧
        x.toNat = (if h = .low then s.init.toNat / 2 ^ 32 * 2 ^ 32 + v.toNat
          else v.toNat * 2 ^ 32 + s.init.toNat % 2 ^ 32)) ∧
      (∃ x, exec (.wrXorout4 h v) s = .next { s with xorout := x, resp := some .written } ∧
        x.toNat = (if h = .low then s.xorout.toNat / 2 ^ 32 * 2 ^ 32 + v.toNat
          else v.toNat * 2 ^ 32 + s.xorout.toNat % 2 ^ 32)) ∧
      (∃ x, exec (.wrRevin4 h v) s = .next { s with revin := x, resp := some .written } ∧
        x.toNat = (if h = .low then s.revin.toNat / 2 ^ 32 * 2 ^ 32 + v.toNat
          else v.toNat * 2 ^ 32 + s.revin.toNat % 2 ^ 32)))

/-- 43_host_access.md R135: a CRC write masks the merged value to W bits and makes REG valid. -/
def Obligations.WriteOfCrc : Prop :=
  ∀ s : State,
    (∀ v : Word64, ∃ x, exec (.wrCrc8 v) s = .next { s with reg := x, rvalid := true, resp := some .written } ∧
      x.toNat = v.toNat % 2 ^ s.W) ∧
    (∀ (h : Half) (v : Word32), ∃ x,
      exec (.wrCrc4 h v) s = .next { s with reg := x, rvalid := true, resp := some .written } ∧
      x.toNat = (if h = .low then s.reg.toNat / 2 ^ 32 * 2 ^ 32 + v.toNat
        else v.toNat * 2 ^ 32 + s.reg.toNat % 2 ^ 32) % 2 ^ s.W)

/-! ### The bit-reversal unit -/

/-- 40_bitrev.md R81: bit j of REVOUT is bit W-1-j of REVIN for j below W, and 0 above; a 4-byte read returns one
half of it. -/
def Obligations.ReadOfRevout : Prop :=
  ∀ s : State, ∃ x : Word64,
    exec .rdRevout8 s = .next { s with resp := some (.word64 x) } ∧
    (∀ j, x.getLsbD j = (decide (j < s.W) && s.revin.getLsbD (s.W - 1 - j))) ∧
    (∃ v, exec (.rdRevout4 .low) s = .next { s with resp := some (.word32 v) } ∧ v.toNat = x.toNat % 2 ^ 32) ∧
    (∃ v, exec (.rdRevout4 .high) s = .next { s with resp := some (.word32 v) } ∧ v.toNat = x.toNat / 2 ^ 32)

/-- 40_bitrev.md R82: writing REVOUT's value back to REVIN and reading REVOUT again gives REVIN[W-1:0]. -/
def Obligations.BitReversalIsAnInvolution : Prop :=
  ∀ (s t u : State) (v : Word64),
    exec .rdRevout8 s = .next { s with resp := some (.word64 v) } →
    exec (.wrRevin8 v) s = .next t → exec .rdRevout8 t = .next u →
    ∃ x, u.resp = some (.word64 x) ∧ x.toNat = s.revin.toNat % 2 ^ s.W

/-! ### The table builder -/

/-- 41_table_builder.md R90: BUILD starts the builder under a coupled configuration and is refused with CFG under any
other. -/
def Obligations.BuildStartsTheBuilder : Prop :=
  ∀ s : State,
    (s.refin = s.refout →
      exec .build s = .next { s with tvalid := false, busy := true, bidx := 0, resp := some .written }) ∧
    (s.refin ≠ s.refout →
      exec .build s = .next { s with err := if s.err = 0 then 2 else s.err, resp := some .written })

/-- 41_table_builder.md R91: each entry is below 2^W, and depends on POLY[W-1:0] alone among POLY's bits. -/
def Obligations.TableEntriesFitTheWidth : Prop :=
  ∀ (width : BitVec 2) (p : Word64) (r : Bool) (i : Byte),
    (entry (widthOf width) (atWidth (widthOf width) p) r i).toNat < 2 ^ widthOf width

/-- 41_table_builder.md R97: the zero entry, linearity, the entry of the polynomial in each mode, and the zero
polynomial. -/
def Obligations.TableIsLinear : Prop :=
  ∀ (width : BitVec 2) (poly : Word64) (r : Bool),
    let W := widthOf width
    let p := atWidth W poly
    entry W p r 0 = 0 ∧
    (∀ a b : Byte, entry W p r (a ^^^ b) = entry W p r a ^^^ entry W p r b) ∧
    entry W p false 0x01 = p ∧
    (∀ j, (entry W p true 0x80).getLsbD j = (decide (j < W) && poly.getLsbD (W - 1 - j))) ∧
    (∀ i : Byte, entry W 0 r i = 0)

/-! ### The streaming accumulator -/

/-- 42_streaming.md R101, R100: START loads INIT[W-1:0], bit-reversed in reflected mode, and is refused with CFG under
an uncoupled configuration. -/
def Obligations.StartLoadsTheRegister : Prop :=
  ∀ s : State,
    (s.refin = s.refout → ∃ x, exec .start s = .next { s with reg := x, rvalid := true, resp := some .written } ∧
      (s.refin = false → x.toNat = s.init.toNat % 2 ^ s.W) ∧
      (s.refin = true → ∀ j, x.getLsbD j = (decide (j < s.W) && s.init.getLsbD (s.W - 1 - j)))) ∧
    (s.refin ≠ s.refout →
      exec .start s = .next { s with err := if s.err = 0 then 2 else s.err, resp := some .written })

/-- 42_streaming.md R103, R105: FEED looks up one table entry; the three cases of the update step. -/
def Obligations.FeedUpdatesTheRegister : Prop :=
  ∀ (s : State) (b : Byte), s.tvalid = true → s.rvalid = true →
    ∃ x, exec (.feed b) s = .next { s with reg := x, resp := some .written } ∧ x.toNat < 2 ^ s.W ∧
      (let r := s.reg.toNat % 2 ^ s.W
       let T (k : Nat) := (s.entryAt (BitVec.ofNat 8 k)).toNat % 2 ^ s.W
       x.toNat =
        if s.W = 8 then T (r ^^^ b.toNat)
        else if s.refout = true then (r / 2 ^ 8) ^^^ T (r % 2 ^ 8 ^^^ b.toNat)
        else (r * 2 ^ 8 % 2 ^ s.W) ^^^ T (r / 2 ^ (s.W - 8) ^^^ b.toNat))

/-- 42_streaming.md R102: `feed_check`: FEED and DATA are refused without a valid table, and then without a valid
register, and fold nothing; with both they fold. -/
def Obligations.FeedAndDataNeedTableAndRegister : Prop :=
  ∀ (s : State) (i : Instr), IsFeed i →
    (s.tvalid = false →
      exec i s = .next { s with err := if s.err = 0 then 3 else s.err, resp := some .written }) ∧
    (s.tvalid = true → s.rvalid = false →
      exec i s = .next { s with err := if s.err = 0 then 4 else s.err, resp := some .written }) ∧
    (s.tvalid = true → s.rvalid = true →
      ∃ x, exec i s = .next { s with reg := x, resp := some .written })

/-- 42_streaming.md R106 (a corner case the spec derives from R105), 30_encoding.md R67: in every state, those that
refuse it included, a DATA write of s bytes is s FEED commands with the bytes in the order k = 0, 1, ...; and with
table and register valid it completes with a change of REG only. -/
def Obligations.DataWriteIsASequenceOfFeeds : Prop :=
  ∀ (s : State) (size : Size) (v : Word64),
    exec (.wrData size v) s =
      execAll ((List.range size.bytes).map fun k => .feed (BitVec.ofNat 8 (v.toNat / 2 ^ (8 * k)))) s ∧
    (s.tvalid = true → s.rvalid = true →
      ∃ x, exec (.wrData size v) s = .next { s with reg := x, resp := some .written })

/-- 42_streaming.md R108, R109: FINAL writes (REG ^ XOROUT)[W-1:0] to RESULT, keeps REG, needs RVALID and no table. -/
def Obligations.FinalWritesTheResult : Prop :=
  ∀ s : State,
    (s.rvalid = true → ∃ x, exec .final s = .next { s with result := x, resp := some .written } ∧
      x.toNat = (s.reg.toNat ^^^ s.xorout.toNat) % 2 ^ s.W) ∧
    (s.rvalid = false →
      exec .final s = .next { s with err := if s.err = 0 then 4 else s.err, resp := some .written })

/-- 43_host_access.md R140: NOP changes no state. -/
def Obligations.NopChangesNothing : Prop :=
  ∀ s : State, exec .nop s = .next { s with resp := some .written }

/-- 42_streaming.md R111: fold d1, save REG by RD.CRC, restore it later by WR.CRC under the same configuration and
table, fold d2: the register is that of d1 followed by d2. -/
def Obligations.SavedStreamContinues : Prop :=
  ∀ (s t1 t u : State) (d1 d2 : List Byte), s.Inv → s.tvalid = true → s.rvalid = true →
    execAll (feeds d1) s = .next t1 → execAll (feeds (d1 ++ d2)) s = .next t →
    u.width = s.width → u.refout = s.refout → u.table = s.table → u.tvalid = true →
    ∃ t', execAll (.wrCrc8 t1.reg :: feeds d2) u = .next t' ∧ t'.reg = t.reg

/-- 00_scope.md R4: what a width computes depends only on state masked to that width. -/
def Obligations.WidthIsolation : Prop :=
  ∀ s u : State, s.width = u.width → s.refin = u.refin → s.refout = u.refout →
    s.tvalid = u.tvalid → s.rvalid = u.rvalid → s.err = u.err →
    (∀ x ∈ [(s.poly, u.poly), (s.init, u.init), (s.xorout, u.xorout), (s.reg, u.reg), (s.revin, u.revin)],
      x.1.toNat % 2 ^ s.W = x.2.toNat % 2 ^ s.W) →
    (∀ i, (s.entryAt i).toNat % 2 ^ s.W = (u.entryAt i).toNat % 2 ^ s.W) →
    (∀ i, entry s.W (atWidth s.W s.poly) s.refin i = entry u.W (atWidth u.W u.poly) u.refin i) ∧
    (∀ t w, exec .start s = .next t → exec .start u = .next w →
      t.reg.toNat % 2 ^ s.W = w.reg.toNat % 2 ^ s.W) ∧
    (∀ size v t w, exec (.wrData size v) s = .next t → exec (.wrData size v) u = .next w →
      t.reg.toNat % 2 ^ s.W = w.reg.toNat % 2 ^ s.W) ∧
    (∀ t w, s.rvalid = true → exec .final s = .next t → exec .final u = .next w → t.result = w.result) ∧
    (∀ t w, exec .rdRevout8 s = .next t → exec .rdRevout8 u = .next w → t.resp = w.resp)

/-! ### The whole computation -/

/-- 42_streaming.md R113: START, the bytes by FEED and FINAL compute the bit-serial reference CRC, at every width and
in both coupled modes, whatever the state held before. The reference is the spec's own, from general knowledge, and
the agreement its own inference (R113 is marked as derived). -/
def Obligations.StreamComputesTheReferenceCrc : Prop :=
  ∀ (s : State) (data : List Byte), s.Inv → s.tvalid = true →
    ∃ t, execAll (.start :: feeds data ++ [.final]) s = .next t ∧
      t.result = refCrc s.W s.poly s.init s.refin s.xorout data

/-- 42_streaming.md R110, R113: from any state in which no build runs, the host's accesses (CFG, POLY, BUILD, INIT,
START, a FEED a byte, XOROUT, FINAL, read RESULT) end in a read that returns the bit-serial reference CRC. The
reference is the spec's own, from general knowledge, and the agreement its own inference (R113 is marked as derived).
That the run takes one step an access and 257 for the build is the model's schedule (assumption 2). -/
def Obligations.HostSequenceReadsTheReferenceCrc : Prop :=
  ∀ (s : State) (width : BitVec 2) (refl : Bool) (p init xo : Word64) (data : List Byte),
    s.busy = false → s.resetLine = [] → s.port = (crcScript width refl p init xo data).map .access →
    ∃ t, Host.Core.run Sys2Proof.core (s.port.length + 257) s = .next t ∧ t.port = [] ∧
      t.resp = some (.word64 (refCrc (widthOf width) p init refl xo data))

/-! ### The host's side -/

/-- 20_memory.md R40: exactly the host addresses of the window reach CRCE, at offset a - BASE, and BASE is 4096-byte
aligned. -/
def Obligations.WindowHoldsItsAddresses : Prop :=
  Config.base % 4096 = 0 ∧
  (∀ a : Nat, Config.base ≤ a → a < Config.base + 4096 →
    ∃ off, windowOffset a = some off ∧ off.toNat = a - Config.base) ∧
  (∀ a : Nat, (a < Config.base ∨ Config.base + 4096 ≤ a) → windowOffset a = none)

/-- 20_memory.md R44, 30_encoding.md R73: the DATA writes of `feed.str` feed the string's bytes in memory order. -/
def Obligations.FeedStrKeepsTheByteOrder : Prop :=
  ∀ text : List Byte, ∃ ws : List (Size × Word64),
    (feedStr text).map decodeBus = ws.map (fun w => .ok (.wrData w.1 w.2)) ∧
    (ws.flatMap fun w => dataBytes w.1 w.2) = text
end

