-- ==== Sys2Proof/Laws/State.lean ====
section
/-! SUPPORT. One lemma per field per named update of the state, each true by rfl, so that no proof unfolds an update. -/

namespace Sys2Proof.Machine.State

/-! ### respond -/

@[simp] theorem respond_width (s : State) (r : Response) : (s.respond r).width = s.width := rfl
@[simp] theorem respond_refin (s : State) (r : Response) : (s.respond r).refin = s.refin := rfl
@[simp] theorem respond_refout (s : State) (r : Response) : (s.respond r).refout = s.refout := rfl
@[simp] theorem respond_busy (s : State) (r : Response) : (s.respond r).busy = s.busy := rfl
@[simp] theorem respond_tvalid (s : State) (r : Response) : (s.respond r).tvalid = s.tvalid := rfl
@[simp] theorem respond_rvalid (s : State) (r : Response) : (s.respond r).rvalid = s.rvalid := rfl
@[simp] theorem respond_done (s : State) (r : Response) : (s.respond r).done = s.done := rfl
@[simp] theorem respond_err (s : State) (r : Response) : (s.respond r).err = s.err := rfl
@[simp] theorem respond_ieDone (s : State) (r : Response) : (s.respond r).ieDone = s.ieDone := rfl
@[simp] theorem respond_ieErr (s : State) (r : Response) : (s.respond r).ieErr = s.ieErr := rfl
@[simp] theorem respond_poly (s : State) (r : Response) : (s.respond r).poly = s.poly := rfl
@[simp] theorem respond_init (s : State) (r : Response) : (s.respond r).init = s.init := rfl
@[simp] theorem respond_xorout (s : State) (r : Response) : (s.respond r).xorout = s.xorout := rfl
@[simp] theorem respond_reg (s : State) (r : Response) : (s.respond r).reg = s.reg := rfl
@[simp] theorem respond_result (s : State) (r : Response) : (s.respond r).result = s.result := rfl
@[simp] theorem respond_revin (s : State) (r : Response) : (s.respond r).revin = s.revin := rfl
@[simp] theorem respond_table (s : State) (r : Response) : (s.respond r).table = s.table := rfl
@[simp] theorem respond_bidx (s : State) (r : Response) : (s.respond r).bidx = s.bidx := rfl
@[simp] theorem respond_resp (s : State) (r : Response) : (s.respond r).resp = (some r) := rfl
@[simp] theorem respond_port (s : State) (r : Response) : (s.respond r).port = s.port := rfl
@[simp] theorem respond_resetLine (s : State) (r : Response) : (s.respond r).resetLine = s.resetLine := rfl
@[simp] theorem respond_resets (s : State) (r : Response) : (s.respond r).resets = s.resets := rfl

/-! ### setEntry -/

@[simp] theorem setEntry_width (s : State) (k : Nat) (v : Word64) : (s.setEntry k v).width = s.width := rfl
@[simp] theorem setEntry_refin (s : State) (k : Nat) (v : Word64) : (s.setEntry k v).refin = s.refin := rfl
@[simp] theorem setEntry_refout (s : State) (k : Nat) (v : Word64) : (s.setEntry k v).refout = s.refout := rfl
@[simp] theorem setEntry_busy (s : State) (k : Nat) (v : Word64) : (s.setEntry k v).busy = s.busy := rfl
@[simp] theorem setEntry_tvalid (s : State) (k : Nat) (v : Word64) : (s.setEntry k v).tvalid = s.tvalid := rfl
@[simp] theorem setEntry_rvalid (s : State) (k : Nat) (v : Word64) : (s.setEntry k v).rvalid = s.rvalid := rfl
@[simp] theorem setEntry_done (s : State) (k : Nat) (v : Word64) : (s.setEntry k v).done = s.done := rfl
@[simp] theorem setEntry_err (s : State) (k : Nat) (v : Word64) : (s.setEntry k v).err = s.err := rfl
@[simp] theorem setEntry_ieDone (s : State) (k : Nat) (v : Word64) : (s.setEntry k v).ieDone = s.ieDone := rfl
@[simp] theorem setEntry_ieErr (s : State) (k : Nat) (v : Word64) : (s.setEntry k v).ieErr = s.ieErr := rfl
@[simp] theorem setEntry_poly (s : State) (k : Nat) (v : Word64) : (s.setEntry k v).poly = s.poly := rfl
@[simp] theorem setEntry_init (s : State) (k : Nat) (v : Word64) : (s.setEntry k v).init = s.init := rfl
@[simp] theorem setEntry_xorout (s : State) (k : Nat) (v : Word64) : (s.setEntry k v).xorout = s.xorout := rfl
@[simp] theorem setEntry_reg (s : State) (k : Nat) (v : Word64) : (s.setEntry k v).reg = s.reg := rfl
@[simp] theorem setEntry_result (s : State) (k : Nat) (v : Word64) : (s.setEntry k v).result = s.result := rfl
@[simp] theorem setEntry_revin (s : State) (k : Nat) (v : Word64) : (s.setEntry k v).revin = s.revin := rfl
@[simp] theorem setEntry_table (s : State) (k : Nat) (v : Word64) : (s.setEntry k v).table = (s.table.setIfInBounds k v) := rfl
@[simp] theorem setEntry_bidx (s : State) (k : Nat) (v : Word64) : (s.setEntry k v).bidx = s.bidx := rfl
@[simp] theorem setEntry_resp (s : State) (k : Nat) (v : Word64) : (s.setEntry k v).resp = s.resp := rfl
@[simp] theorem setEntry_port (s : State) (k : Nat) (v : Word64) : (s.setEntry k v).port = s.port := rfl
@[simp] theorem setEntry_resetLine (s : State) (k : Nat) (v : Word64) : (s.setEntry k v).resetLine = s.resetLine := rfl
@[simp] theorem setEntry_resets (s : State) (k : Nat) (v : Word64) : (s.setEntry k v).resets = s.resets := rfl

/-! ### recordError -/

@[simp] theorem recordError_width (s : State) (e : CmdError) : (s.recordError e).width = s.width := rfl
@[simp] theorem recordError_refin (s : State) (e : CmdError) : (s.recordError e).refin = s.refin := rfl
@[simp] theorem recordError_refout (s : State) (e : CmdError) : (s.recordError e).refout = s.refout := rfl
@[simp] theorem recordError_busy (s : State) (e : CmdError) : (s.recordError e).busy = s.busy := rfl
@[simp] theorem recordError_tvalid (s : State) (e : CmdError) : (s.recordError e).tvalid = s.tvalid := rfl
@[simp] theorem recordError_rvalid (s : State) (e : CmdError) : (s.recordError e).rvalid = s.rvalid := rfl
@[simp] theorem recordError_done (s : State) (e : CmdError) : (s.recordError e).done = s.done := rfl
@[simp] theorem recordError_err (s : State) (e : CmdError) : (s.recordError e).err = (if s.err = 0 then e.code else s.err) := rfl
@[simp] theorem recordError_ieDone (s : State) (e : CmdError) : (s.recordError e).ieDone = s.ieDone := rfl
@[simp] theorem recordError_ieErr (s : State) (e : CmdError) : (s.recordError e).ieErr = s.ieErr := rfl
@[simp] theorem recordError_poly (s : State) (e : CmdError) : (s.recordError e).poly = s.poly := rfl
@[simp] theorem recordError_init (s : State) (e : CmdError) : (s.recordError e).init = s.init := rfl
@[simp] theorem recordError_xorout (s : State) (e : CmdError) : (s.recordError e).xorout = s.xorout := rfl
@[simp] theorem recordError_reg (s : State) (e : CmdError) : (s.recordError e).reg = s.reg := rfl
@[simp] theorem recordError_result (s : State) (e : CmdError) : (s.recordError e).result = s.result := rfl
@[simp] theorem recordError_revin (s : State) (e : CmdError) : (s.recordError e).revin = s.revin := rfl
@[simp] theorem recordError_table (s : State) (e : CmdError) : (s.recordError e).table = s.table := rfl
@[simp] theorem recordError_bidx (s : State) (e : CmdError) : (s.recordError e).bidx = s.bidx := rfl
@[simp] theorem recordError_resp (s : State) (e : CmdError) : (s.recordError e).resp = s.resp := rfl
@[simp] theorem recordError_port (s : State) (e : CmdError) : (s.recordError e).port = s.port := rfl
@[simp] theorem recordError_resetLine (s : State) (e : CmdError) : (s.recordError e).resetLine = s.resetLine := rfl
@[simp] theorem recordError_resets (s : State) (e : CmdError) : (s.recordError e).resets = s.resets := rfl

/-! ### acknowledge -/

@[simp] theorem acknowledge_width (s : State) (d e : Bool) : (s.acknowledge d e).width = s.width := rfl
@[simp] theorem acknowledge_refin (s : State) (d e : Bool) : (s.acknowledge d e).refin = s.refin := rfl
@[simp] theorem acknowledge_refout (s : State) (d e : Bool) : (s.acknowledge d e).refout = s.refout := rfl
@[simp] theorem acknowledge_busy (s : State) (d e : Bool) : (s.acknowledge d e).busy = s.busy := rfl
@[simp] theorem acknowledge_tvalid (s : State) (d e : Bool) : (s.acknowledge d e).tvalid = s.tvalid := rfl
@[simp] theorem acknowledge_rvalid (s : State) (d e : Bool) : (s.acknowledge d e).rvalid = s.rvalid := rfl
@[simp] theorem acknowledge_done (s : State) (d e : Bool) : (s.acknowledge d e).done = (s.done && !d) := rfl
@[simp] theorem acknowledge_err (s : State) (d e : Bool) : (s.acknowledge d e).err = (if e then 0 else s.err) := rfl
@[simp] theorem acknowledge_ieDone (s : State) (d e : Bool) : (s.acknowledge d e).ieDone = s.ieDone := rfl
@[simp] theorem acknowledge_ieErr (s : State) (d e : Bool) : (s.acknowledge d e).ieErr = s.ieErr := rfl
@[simp] theorem acknowledge_poly (s : State) (d e : Bool) : (s.acknowledge d e).poly = s.poly := rfl
@[simp] theorem acknowledge_init (s : State) (d e : Bool) : (s.acknowledge d e).init = s.init := rfl
@[simp] theorem acknowledge_xorout (s : State) (d e : Bool) : (s.acknowledge d e).xorout = s.xorout := rfl
@[simp] theorem acknowledge_reg (s : State) (d e : Bool) : (s.acknowledge d e).reg = s.reg := rfl
@[simp] theorem acknowledge_result (s : State) (d e : Bool) : (s.acknowledge d e).result = s.result := rfl
@[simp] theorem acknowledge_revin (s : State) (d e : Bool) : (s.acknowledge d e).revin = s.revin := rfl
@[simp] theorem acknowledge_table (s : State) (d e : Bool) : (s.acknowledge d e).table = s.table := rfl
@[simp] theorem acknowledge_bidx (s : State) (d e : Bool) : (s.acknowledge d e).bidx = s.bidx := rfl
@[simp] theorem acknowledge_resp (s : State) (d e : Bool) : (s.acknowledge d e).resp = s.resp := rfl
@[simp] theorem acknowledge_port (s : State) (d e : Bool) : (s.acknowledge d e).port = s.port := rfl
@[simp] theorem acknowledge_resetLine (s : State) (d e : Bool) : (s.acknowledge d e).resetLine = s.resetLine := rfl
@[simp] theorem acknowledge_resets (s : State) (d e : Bool) : (s.acknowledge d e).resets = s.resets := rfl

/-! ### foldByte -/

@[simp] theorem foldByte_width (s : State) (b : Byte) : (s.foldByte b).width = s.width := rfl
@[simp] theorem foldByte_refin (s : State) (b : Byte) : (s.foldByte b).refin = s.refin := rfl
@[simp] theorem foldByte_refout (s : State) (b : Byte) : (s.foldByte b).refout = s.refout := rfl
@[simp] theorem foldByte_busy (s : State) (b : Byte) : (s.foldByte b).busy = s.busy := rfl
@[simp] theorem foldByte_tvalid (s : State) (b : Byte) : (s.foldByte b).tvalid = s.tvalid := rfl
@[simp] theorem foldByte_rvalid (s : State) (b : Byte) : (s.foldByte b).rvalid = s.rvalid := rfl
@[simp] theorem foldByte_done (s : State) (b : Byte) : (s.foldByte b).done = s.done := rfl
@[simp] theorem foldByte_err (s : State) (b : Byte) : (s.foldByte b).err = s.err := rfl
@[simp] theorem foldByte_ieDone (s : State) (b : Byte) : (s.foldByte b).ieDone = s.ieDone := rfl
@[simp] theorem foldByte_ieErr (s : State) (b : Byte) : (s.foldByte b).ieErr = s.ieErr := rfl
@[simp] theorem foldByte_poly (s : State) (b : Byte) : (s.foldByte b).poly = s.poly := rfl
@[simp] theorem foldByte_init (s : State) (b : Byte) : (s.foldByte b).init = s.init := rfl
@[simp] theorem foldByte_xorout (s : State) (b : Byte) : (s.foldByte b).xorout = s.xorout := rfl
@[simp] theorem foldByte_reg (s : State) (b : Byte) : (s.foldByte b).reg = (s.update b (atWidth s.W s.reg)) := rfl
@[simp] theorem foldByte_result (s : State) (b : Byte) : (s.foldByte b).result = s.result := rfl
@[simp] theorem foldByte_revin (s : State) (b : Byte) : (s.foldByte b).revin = s.revin := rfl
@[simp] theorem foldByte_table (s : State) (b : Byte) : (s.foldByte b).table = s.table := rfl
@[simp] theorem foldByte_bidx (s : State) (b : Byte) : (s.foldByte b).bidx = s.bidx := rfl
@[simp] theorem foldByte_resp (s : State) (b : Byte) : (s.foldByte b).resp = s.resp := rfl
@[simp] theorem foldByte_port (s : State) (b : Byte) : (s.foldByte b).port = s.port := rfl
@[simp] theorem foldByte_resetLine (s : State) (b : Byte) : (s.foldByte b).resetLine = s.resetLine := rfl
@[simp] theorem foldByte_resets (s : State) (b : Byte) : (s.foldByte b).resets = s.resets := rfl

/-! ### writePoly -/

@[simp] theorem writePoly_width (s : State) (x : Word64) : (s.writePoly x).width = s.width := rfl
@[simp] theorem writePoly_refin (s : State) (x : Word64) : (s.writePoly x).refin = s.refin := rfl
@[simp] theorem writePoly_refout (s : State) (x : Word64) : (s.writePoly x).refout = s.refout := rfl
@[simp] theorem writePoly_busy (s : State) (x : Word64) : (s.writePoly x).busy = s.busy := rfl
@[simp] theorem writePoly_tvalid (s : State) (x : Word64) : (s.writePoly x).tvalid = false := rfl
@[simp] theorem writePoly_rvalid (s : State) (x : Word64) : (s.writePoly x).rvalid = s.rvalid := rfl
@[simp] theorem writePoly_done (s : State) (x : Word64) : (s.writePoly x).done = s.done := rfl
@[simp] theorem writePoly_err (s : State) (x : Word64) : (s.writePoly x).err = s.err := rfl
@[simp] theorem writePoly_ieDone (s : State) (x : Word64) : (s.writePoly x).ieDone = s.ieDone := rfl
@[simp] theorem writePoly_ieErr (s : State) (x : Word64) : (s.writePoly x).ieErr = s.ieErr := rfl
@[simp] theorem writePoly_poly (s : State) (x : Word64) : (s.writePoly x).poly = x := rfl
@[simp] theorem writePoly_init (s : State) (x : Word64) : (s.writePoly x).init = s.init := rfl
@[simp] theorem writePoly_xorout (s : State) (x : Word64) : (s.writePoly x).xorout = s.xorout := rfl
@[simp] theorem writePoly_reg (s : State) (x : Word64) : (s.writePoly x).reg = s.reg := rfl
@[simp] theorem writePoly_result (s : State) (x : Word64) : (s.writePoly x).result = s.result := rfl
@[simp] theorem writePoly_revin (s : State) (x : Word64) : (s.writePoly x).revin = s.revin := rfl
@[simp] theorem writePoly_table (s : State) (x : Word64) : (s.writePoly x).table = s.table := rfl
@[simp] theorem writePoly_bidx (s : State) (x : Word64) : (s.writePoly x).bidx = s.bidx := rfl
@[simp] theorem writePoly_resp (s : State) (x : Word64) : (s.writePoly x).resp = s.resp := rfl
@[simp] theorem writePoly_port (s : State) (x : Word64) : (s.writePoly x).port = s.port := rfl
@[simp] theorem writePoly_resetLine (s : State) (x : Word64) : (s.writePoly x).resetLine = s.resetLine := rfl
@[simp] theorem writePoly_resets (s : State) (x : Word64) : (s.writePoly x).resets = s.resets := rfl

/-! ### writeCrc -/

@[simp] theorem writeCrc_width (s : State) (x : Word64) : (s.writeCrc x).width = s.width := rfl
@[simp] theorem writeCrc_refin (s : State) (x : Word64) : (s.writeCrc x).refin = s.refin := rfl
@[simp] theorem writeCrc_refout (s : State) (x : Word64) : (s.writeCrc x).refout = s.refout := rfl
@[simp] theorem writeCrc_busy (s : State) (x : Word64) : (s.writeCrc x).busy = s.busy := rfl
@[simp] theorem writeCrc_tvalid (s : State) (x : Word64) : (s.writeCrc x).tvalid = s.tvalid := rfl
@[simp] theorem writeCrc_rvalid (s : State) (x : Word64) : (s.writeCrc x).rvalid = true := rfl
@[simp] theorem writeCrc_done (s : State) (x : Word64) : (s.writeCrc x).done = s.done := rfl
@[simp] theorem writeCrc_err (s : State) (x : Word64) : (s.writeCrc x).err = s.err := rfl
@[simp] theorem writeCrc_ieDone (s : State) (x : Word64) : (s.writeCrc x).ieDone = s.ieDone := rfl
@[simp] theorem writeCrc_ieErr (s : State) (x : Word64) : (s.writeCrc x).ieErr = s.ieErr := rfl
@[simp] theorem writeCrc_poly (s : State) (x : Word64) : (s.writeCrc x).poly = s.poly := rfl
@[simp] theorem writeCrc_init (s : State) (x : Word64) : (s.writeCrc x).init = s.init := rfl
@[simp] theorem writeCrc_xorout (s : State) (x : Word64) : (s.writeCrc x).xorout = s.xorout := rfl
@[simp] theorem writeCrc_reg (s : State) (x : Word64) : (s.writeCrc x).reg = (atWidth s.W x) := rfl
@[simp] theorem writeCrc_result (s : State) (x : Word64) : (s.writeCrc x).result = s.result := rfl
@[simp] theorem writeCrc_revin (s : State) (x : Word64) : (s.writeCrc x).revin = s.revin := rfl
@[simp] theorem writeCrc_table (s : State) (x : Word64) : (s.writeCrc x).table = s.table := rfl
@[simp] theorem writeCrc_bidx (s : State) (x : Word64) : (s.writeCrc x).bidx = s.bidx := rfl
@[simp] theorem writeCrc_resp (s : State) (x : Word64) : (s.writeCrc x).resp = s.resp := rfl
@[simp] theorem writeCrc_port (s : State) (x : Word64) : (s.writeCrc x).port = s.port := rfl
@[simp] theorem writeCrc_resetLine (s : State) (x : Word64) : (s.writeCrc x).resetLine = s.resetLine := rfl
@[simp] theorem writeCrc_resets (s : State) (x : Word64) : (s.writeCrc x).resets = s.resets := rfl

/-! ### softReset -/

@[simp] theorem softReset_width (s : State) : (s.softReset).width = 0 := rfl
@[simp] theorem softReset_refin (s : State) : (s.softReset).refin = false := rfl
@[simp] theorem softReset_refout (s : State) : (s.softReset).refout = false := rfl
@[simp] theorem softReset_busy (s : State) : (s.softReset).busy = s.busy := rfl
@[simp] theorem softReset_tvalid (s : State) : (s.softReset).tvalid = false := rfl
@[simp] theorem softReset_rvalid (s : State) : (s.softReset).rvalid = false := rfl
@[simp] theorem softReset_done (s : State) : (s.softReset).done = false := rfl
@[simp] theorem softReset_err (s : State) : (s.softReset).err = 0 := rfl
@[simp] theorem softReset_ieDone (s : State) : (s.softReset).ieDone = false := rfl
@[simp] theorem softReset_ieErr (s : State) : (s.softReset).ieErr = false := rfl
@[simp] theorem softReset_poly (s : State) : (s.softReset).poly = 0 := rfl
@[simp] theorem softReset_init (s : State) : (s.softReset).init = 0 := rfl
@[simp] theorem softReset_xorout (s : State) : (s.softReset).xorout = 0 := rfl
@[simp] theorem softReset_reg (s : State) : (s.softReset).reg = 0 := rfl
@[simp] theorem softReset_result (s : State) : (s.softReset).result = 0 := rfl
@[simp] theorem softReset_revin (s : State) : (s.softReset).revin = 0 := rfl
@[simp] theorem softReset_table (s : State) : (s.softReset).table = s.table := rfl
@[simp] theorem softReset_bidx (s : State) : (s.softReset).bidx = 0 := rfl
@[simp] theorem softReset_resp (s : State) : (s.softReset).resp = s.resp := rfl
@[simp] theorem softReset_port (s : State) : (s.softReset).port = s.port := rfl
@[simp] theorem softReset_resetLine (s : State) : (s.softReset).resetLine = s.resetLine := rfl
@[simp] theorem softReset_resets (s : State) : (s.softReset).resets = s.resets := rfl

/-! ### hwReset -/

@[simp] theorem hwReset_width (s : State) : (s.hwReset).width = 0 := rfl
@[simp] theorem hwReset_refin (s : State) : (s.hwReset).refin = false := rfl
@[simp] theorem hwReset_refout (s : State) : (s.hwReset).refout = false := rfl
@[simp] theorem hwReset_busy (s : State) : (s.hwReset).busy = false := rfl
@[simp] theorem hwReset_tvalid (s : State) : (s.hwReset).tvalid = false := rfl
@[simp] theorem hwReset_rvalid (s : State) : (s.hwReset).rvalid = false := rfl
@[simp] theorem hwReset_done (s : State) : (s.hwReset).done = false := rfl
@[simp] theorem hwReset_err (s : State) : (s.hwReset).err = 0 := rfl
@[simp] theorem hwReset_ieDone (s : State) : (s.hwReset).ieDone = false := rfl
@[simp] theorem hwReset_ieErr (s : State) : (s.hwReset).ieErr = false := rfl
@[simp] theorem hwReset_poly (s : State) : (s.hwReset).poly = 0 := rfl
@[simp] theorem hwReset_init (s : State) : (s.hwReset).init = 0 := rfl
@[simp] theorem hwReset_xorout (s : State) : (s.hwReset).xorout = 0 := rfl
@[simp] theorem hwReset_reg (s : State) : (s.hwReset).reg = 0 := rfl
@[simp] theorem hwReset_result (s : State) : (s.hwReset).result = 0 := rfl
@[simp] theorem hwReset_revin (s : State) : (s.hwReset).revin = 0 := rfl
@[simp] theorem hwReset_table (s : State) : (s.hwReset).table = (tableOfReset s.resets) := rfl
@[simp] theorem hwReset_bidx (s : State) : (s.hwReset).bidx = 0 := rfl
@[simp] theorem hwReset_resp (s : State) : (s.hwReset).resp = none := rfl
@[simp] theorem hwReset_port (s : State) : (s.hwReset).port = s.port := rfl
@[simp] theorem hwReset_resetLine (s : State) : (s.hwReset).resetLine = s.resetLine := rfl
@[simp] theorem hwReset_resets (s : State) : (s.hwReset).resets = (s.resets + 1) := rfl

end Sys2Proof.Machine.State
end

