-- ==== Sys2Proof/Laws/Operands.lean ====
section
/-! SUPPORT. What the operand forms compute: widths, masks, bit reversal, halves, the bytes of a DATA write and the
table's accessors. -/

namespace Sys2Proof.Machine

/-! ### Widths and masks -/

/-- The four widths (00_scope.md R3). -/
theorem widthOf_cases (w : BitVec 2) : widthOf w = 8 ∨ widthOf w = 16 ∨ widthOf w = 32 ∨ widthOf w = 64 := by
  revert w; decide

theorem widthOf_le (w : BitVec 2) : widthOf w ≤ 64 := by
  rcases widthOf_cases w with h | h | h | h <;> omega

theorem le_widthOf (w : BitVec 2) : 8 ≤ widthOf w := by
  rcases widthOf_cases w with h | h | h | h <;> omega

theorem State.W_cases (s : State) : s.W = 8 ∨ s.W = 16 ∨ s.W = 32 ∨ s.W = 64 := widthOf_cases s.width

theorem State.W_le (s : State) : s.W ≤ 64 := widthOf_le s.width

theorem State.le_W (s : State) : 8 ≤ s.W := le_widthOf s.width

theorem atWidth_toNat {W : Nat} (h : W ≤ 64) (v : Word64) : (atWidth W v).toNat = v.toNat % 2 ^ W := by
  have hp : 2 ^ W ≤ 2 ^ 64 := Nat.pow_le_pow_right (by decide) h
  have hm : (2 ^ W - 1) % 2 ^ 64 = 2 ^ W - 1 := Nat.mod_eq_of_lt (by have := Nat.two_pow_pos W; omega)
  simp only [atWidth, mask, BitVec.toNat_and, BitVec.toNat_ofNat, hm, Nat.and_two_pow_sub_one_eq_mod]

theorem atWidth_lt {W : Nat} (h : W ≤ 64) (v : Word64) : (atWidth W v).toNat < 2 ^ W := by
  rw [atWidth_toNat h]; exact Nat.mod_lt _ (Nat.two_pow_pos W)

theorem atWidth_getLsbD {W : Nat} (h : W ≤ 64) (v : Word64) (j : Nat) :
    (atWidth W v).getLsbD j = (decide (j < W) && v.getLsbD j) := by
  simp only [BitVec.getLsbD, atWidth_toNat h, Nat.testBit_mod_two_pow]

/-- A value of W bits is its own value at width W. -/
theorem atWidth_eq_self {W : Nat} (h : W ≤ 64) {v : Word64} (hv : v.toNat < 2 ^ W) : atWidth W v = v := by
  apply BitVec.eq_of_toNat_eq
  rw [atWidth_toNat h, Nat.mod_eq_of_lt hv]

theorem atWidth_idem {W : Nat} (h : W ≤ 64) (v : Word64) : atWidth W (atWidth W v) = atWidth W v :=
  atWidth_eq_self h (atWidth_lt h v)

theorem atWidth_xor (W : Nat) (a b : Word64) : atWidth W (a ^^^ b) = atWidth W a ^^^ atWidth W b := by
  apply BitVec.eq_of_getLsbD_eq
  intro j _
  simp only [atWidth, BitVec.getLsbD_and, BitVec.getLsbD_xor, Bool.and_xor_distrib_right]

/-! ### Bit reversal -/

/-- Bit j of `rev_W(x)` is bit W-1-j of x (40_bitrev.md R80). -/
theorem rev_getLsbD {W : Nat} (h : W ≤ 64) (x : Word64) (j : Nat) :
    (rev W x).getLsbD j = (decide (j < W) && x.getLsbD (W - 1 - j)) := by
  simp only [rev, BitVec.getLsbD_ushiftRight, BitVec.getLsbD_reverse, BitVec.getMsbD]
  by_cases hj : j < W
  · have h1 : 64 - W + j < 64 := by omega
    have h2 : 64 - 1 - (64 - W + j) = W - 1 - j := by omega
    simp only [hj, h1, h2]
  · have h1 : ¬ 64 - W + j < 64 := by omega
    simp only [hj, h1, decide_false, Bool.false_and]

theorem rev_lt {W : Nat} (h : W ≤ 64) (x : Word64) : (rev W x).toNat < 2 ^ W := by
  rw [rev, BitVec.toNat_ushiftRight, Nat.shiftRight_eq_div_pow]
  apply Nat.div_lt_of_lt_mul
  rw [← Nat.pow_add, show 64 - W + W = 64 by omega]
  exact x.reverse.isLt

theorem rev_xor {W : Nat} (h : W ≤ 64) (a b : Word64) : rev W (a ^^^ b) = rev W a ^^^ rev W b := by
  apply BitVec.eq_of_getLsbD_eq
  intro j _
  simp only [rev_getLsbD h, BitVec.getLsbD_xor, Bool.and_xor_distrib_left]

/-! ### Halves -/

theorem halfOf_low_toNat (x : Word64) : (halfOf .low x).toNat = x.toNat % 2 ^ 32 := by
  simp only [halfOf, BitVec.extractLsb'_toNat, Nat.shiftRight_zero]

theorem halfOf_high_toNat (x : Word64) : (halfOf .high x).toNat = x.toNat / 2 ^ 32 := by
  have := x.isLt
  simp only [halfOf, BitVec.extractLsb'_toNat, Nat.shiftRight_eq_div_pow]
  omega

theorem withHalf_low_toNat (x : Word64) (v : Word32) :
    (withHalf .low x v).toNat = x.toNat / 2 ^ 32 * 2 ^ 32 + v.toNat := by
  have := x.isLt
  simp only [withHalf]
  rw [BitVec.toNat_append, ← Nat.shiftLeft_add_eq_or_of_lt v.isLt, Nat.shiftLeft_eq, BitVec.extractLsb'_toNat,
    Nat.shiftRight_eq_div_pow]
  omega

theorem withHalf_high_toNat (x : Word64) (v : Word32) :
    (withHalf .high x v).toNat = v.toNat * 2 ^ 32 + x.toNat % 2 ^ 32 := by
  simp only [withHalf]
  rw [BitVec.toNat_append, ← Nat.shiftLeft_add_eq_or_of_lt (x.extractLsb' 0 32).isLt, Nat.shiftLeft_eq,
    BitVec.extractLsb'_toNat, Nat.shiftRight_zero]

/-! ### The table -/

theorem State.entryAt_setEntry (s : State) (k : Byte) (v : Word64) (i : Byte) :
    (s.setEntry k.toNat v).entryAt i = if i = k then v else s.entryAt i := by
  simp only [State.entryAt, State.setEntry, Vector.getElem_setIfInBounds]
  by_cases h : i = k
  · subst h; simp only [if_pos]
  · rw [if_neg (fun e => h (BitVec.eq_of_toNat_eq e.symm)), if_neg h]

/-- The table reads the same in states with the same table. -/
theorem State.entryAt_congr {s t : State} (h : s.table = t.table) (i : Byte) : s.entryAt i = t.entryAt i := by
  simp only [State.entryAt, h]

/-- The entries the builder writes depend on WIDTH, POLY and REFIN only (41_table_builder.md R96). -/
theorem State.entryFor_congr {s t : State} (hw : s.width = t.width) (hp : s.poly = t.poly)
    (hr : s.refin = t.refin) (i : Byte) : s.entryFor i = t.entryFor i := by
  simp only [State.entryFor, State.W, hw, hp, hr]

end Sys2Proof.Machine
end

