-- ==== Sys2Proof/Laws/Decode.lean ====
section
/-! SUPPORT. The fields of an access descriptor: what a descriptor made of fields reads as, and that the fields make up
the descriptor (30_encoding.md R61). -/

namespace Sys2Proof

/-- `desc = DIR << 15 | SZ << 13 | OFF` as a number (30_encoding.md R61). -/
theorem descOf_toNat (w : Bool) (size : Size) (off : Offset) :
    (descOf w size off).toNat = w.toNat * 2 ^ 15 + (sizeBits size).toNat * 2 ^ 13 + off.toNat := by
  have h1 : (BitVec.ofBool w ++ sizeBits size).toNat = w.toNat * 2 ^ 2 + (sizeBits size).toNat := by
    rw [BitVec.toNat_append, ← Nat.shiftLeft_add_eq_or_of_lt (sizeBits size).isLt, Nat.shiftLeft_eq,
      BitVec.toNat_ofBool]
  have h2 : (BitVec.ofBool w ++ sizeBits size ++ 0#1).toNat =
      (w.toNat * 2 ^ 2 + (sizeBits size).toNat) * 2 ^ 1 := by
    rw [BitVec.toNat_append, ← Nat.shiftLeft_add_eq_or_of_lt (0#1).isLt, Nat.shiftLeft_eq, h1]
    rfl
  rw [descOf, BitVec.toNat_append, ← Nat.shiftLeft_add_eq_or_of_lt off.isLt, Nat.shiftLeft_eq, h2]
  omega

theorem sizeBits_toNat (size : Size) : size.bytes = 2 ^ (sizeBits size).toNat := by cases size <;> rfl

/-- The fields of a descriptor as numbers. -/
theorem descWrites_eq (d : Word16) : descWrites d = decide (d.toNat / 2 ^ 15 % 2 = 1) := by
  simp only [descWrites, BitVec.getLsbD, Nat.testBit_eq_decide_div_mod_eq]

theorem descBit12_eq (d : Word16) : descBit12 d = decide (d.toNat / 2 ^ 12 % 2 = 1) := by
  simp only [descBit12, BitVec.getLsbD, Nat.testBit_eq_decide_div_mod_eq]

theorem descOff_toNat (d : Word16) : (descOff d).toNat = d.toNat % 2 ^ 12 := by
  simp only [descOff, BitVec.extractLsb'_toNat, Nat.shiftRight_zero]

theorem descSize_toNat (d : Word16) : (sizeBits (descSize d)).toNat = d.toNat / 2 ^ 13 % 4 := by
  have h14 : d.getLsbD 14 = decide (d.toNat / 2 ^ 14 % 2 = 1) := by
    simp only [BitVec.getLsbD, Nat.testBit_eq_decide_div_mod_eq]
  have h13 : d.getLsbD 13 = decide (d.toNat / 2 ^ 13 % 2 = 1) := by
    simp only [BitVec.getLsbD, Nat.testBit_eq_decide_div_mod_eq]
  simp only [descSize, h14, h13]
  split <;> simp_all [sizeBits] <;> omega

theorem sizeBits_injective {a b : Size} (h : (sizeBits a).toNat = (sizeBits b).toNat) : a = b := by
  cases a <;> cases b <;> first | rfl | (simp [sizeBits] at h)

@[simp] theorem descWrites_descOf (w : Bool) (size : Size) (off : Offset) :
    descWrites (descOf w size off) = w := by
  have := off.isLt
  have := (sizeBits size).isLt
  rw [descWrites_eq, descOf_toNat]
  cases w <;> simp <;> omega

@[simp] theorem descBit12_descOf (w : Bool) (size : Size) (off : Offset) :
    descBit12 (descOf w size off) = false := by
  have := off.isLt
  rw [descBit12_eq, descOf_toNat]
  simp only [decide_eq_false_iff_not]
  omega

@[simp] theorem descOff_descOf (w : Bool) (size : Size) (off : Offset) :
    descOff (descOf w size off) = off := by
  apply BitVec.eq_of_toNat_eq
  have := off.isLt
  rw [descOff_toNat, descOf_toNat]
  omega

@[simp] theorem descSize_descOf (w : Bool) (size : Size) (off : Offset) :
    descSize (descOf w size off) = size := by
  apply sizeBits_injective
  have := off.isLt
  have := (sizeBits size).isLt
  rw [descSize_toNat, descOf_toNat]
  omega

/-- A descriptor with bit 12 clear is made of its fields. -/
theorem descOf_fields {d : Word16} (h : descBit12 d = false) :
    descOf (descWrites d) (descSize d) (descOff d) = d := by
  apply BitVec.eq_of_toNat_eq
  have hd := d.isLt
  have hw : (descWrites d).toNat = d.toNat / 2 ^ 15 % 2 := by
    rw [descWrites_eq]
    by_cases hp : d.toNat / 2 ^ 15 % 2 = 1
    · rw [decide_eq_true hp, hp]; rfl
    · rw [decide_eq_false hp]; simp only [Bool.toNat_false]; omega
  rw [descBit12_eq, decide_eq_false_iff_not] at h
  rw [descOf_toNat, hw, descSize_toNat, descOff_toNat]
  omega

/-- The one access that is never held is the read of STATUS, 0x4004 (43_host_access.md R120, R123). -/
theorem Access.isStatusRead_iff (a : Access) : a.isStatusRead = true ↔ a.desc = 0x4004 := by
  constructor
  · intro h
    simp only [Access.isStatusRead, Bool.and_eq_true, Bool.not_eq_true', beq_iff_eq] at h
    obtain ⟨⟨⟨hw, hs⟩, hb⟩, ho⟩ := h
    rw [← descOf_fields hb, hw, hs, ho]
    rfl
  · intro h
    simp only [Access.isStatusRead, h]
    decide

theorem decodeBus_statusRead {a : Access} (h : a.desc = 0x4004) : decodeBus a = .ok .rdStatus := by
  obtain ⟨d, v⟩ := a
  obtain rfl : d = descOf false .four 0x004 := h
  simp [decodeBus, reg32At, decodeReg32]

end Sys2Proof
end

