-- ==== Sys2Proof/Laws/Ops.lean ====
section
/-! SUPPORT. One lemma per shared operation that says everything it can do; the provers cite it instead of unfolding the
operation. -/

namespace Sys2Proof.Machine

/-! ### Answers and errors -/

theorem State.written_eq (s : State) : s.written = .next (s.respond .written) := rfl

theorem State.return32_eq (s : State) (v : Word32) : s.return32 v = .next (s.respond (.word32 v)) := rfl

theorem State.return64_eq (s : State) (v : Word64) : s.return64 v = .next (s.respond (.word64 v)) := rfl

/-- Raising a command error records it and ends the write with no other effect (60_exceptions.md R150). -/
theorem raiseCmdError_eq (e : CmdError) (s : State) :
    raiseCmdError e s = .next ((s.recordError e).respond .written) := rfl

/-- Raising a bus error answers with it and changes no state (60_exceptions.md R155). -/
theorem raiseBusError_eq (r : BusError) (s : State) : raiseBusError r s = .next (s.respond (.busError r)) := rfl

/-- The error codes are 1 to 4 (60_exceptions.md R151). -/
theorem CmdError.code_range (e : CmdError) : 1 ≤ e.code.toNat ∧ e.code.toNat ≤ 4 := by cases e <;> decide

/-- The check of FEED and DATA: the error it reports, or both flags set (42_streaming.md R102). -/
theorem State.feedCheck_cases (s : State) :
    (s.feedCheck = some .noTable ∧ s.tvalid = false) ∨
    (s.feedCheck = some .noReg ∧ s.tvalid = true ∧ s.rvalid = false) ∨
    (s.feedCheck = none ∧ s.tvalid = true ∧ s.rvalid = true) := by
  unfold State.feedCheck
  cases s.tvalid <;> cases s.rvalid <;> simp

theorem State.cfgOk_iff (s : State) : s.cfgOk = true ↔ s.refin = s.refout := by simp [State.cfgOk]

/-! ### The command word -/

/-- A word that decodes is one of the six commands (30_encoding.md R65). -/
theorem decodeCmd_cases {c : Word32} {i : Instr} (h : decodeCmd c = some i) :
    i = .nop ∨ i = .build ∨ i = .start ∨ (∃ b, i = .feed b) ∨ i = .final ∨ i = .srst := by
  unfold decodeCmd at h
  split at h
  · cases h
  · split at h <;> cases h <;> simp

/-! ### Folding bytes -/

/-- Folding bytes changes REG only, and keeps it at W bits when it was (42_streaming.md R103). -/
theorem State.foldl_foldByte (bs : List Byte) (s : State) :
    bs.foldl State.foldByte s = { s with reg := (bs.foldl State.foldByte s).reg } := by
  induction bs generalizing s with
  | nil => rfl
  | cons b bs ih => rw [List.foldl_cons, ih]; rfl

/-- A byte update gives a value of W bits (42_streaming.md R103). -/
theorem State.update_lt (s : State) (b : Byte) (r : Word64) (hr : r.toNat < 2 ^ s.W) :
    (s.update b r).toNat < 2 ^ s.W := by
  have hW := s.W_le
  have shr : (r >>> 8).toNat < 2 ^ s.W := by
    rw [BitVec.toNat_ushiftRight]
    exact Nat.lt_of_le_of_lt (Nat.shiftRight_le _ _) hr
  unfold State.update
  split
  · rename_i h8
    rw [h8]; exact atWidth_lt (by decide) _
  · split
    · rw [BitVec.toNat_xor]; exact Nat.xor_lt_two_pow shr (atWidth_lt hW _)
    · rw [BitVec.toNat_xor]; exact Nat.xor_lt_two_pow (atWidth_lt hW _) (atWidth_lt hW _)

theorem State.foldByte_lt (s : State) (b : Byte) : (s.foldByte b).reg.toNat < 2 ^ s.W := by
  rw [State.foldByte_reg]
  exact s.update_lt b _ (atWidth_lt s.W_le _)

theorem State.foldl_foldByte_lt (bs : List Byte) (s : State) (h : s.reg.toNat < 2 ^ s.W) :
    (bs.foldl State.foldByte s).reg.toNat < 2 ^ s.W := by
  induction bs generalizing s with
  | nil => exact h
  | cons b bs ih => exact ih (s.foldByte b) (s.foldByte_lt b)

/-- The register START loads has W bits (42_streaming.md R100). -/
theorem State.initReg_lt (s : State) : s.initReg.toNat < 2 ^ s.W := by
  unfold State.initReg
  split
  · exact rev_lt s.W_le _
  · exact atWidth_lt s.W_le _

/-! ### The builder -/

/-- What one builder step does (41_table_builder.md R94). -/
theorem State.builderStep_cases (s : State) :
    (s.bidx.toNat < 256 ∧ s.builderStep =
      { s.setEntry s.bidx.toNat (s.entryFor (s.bidx.setWidth 8)) with bidx := s.bidx + 1 }) ∨
    (256 ≤ s.bidx.toNat ∧
      s.builderStep = { s with busy := false, tvalid := true, done := true, bidx := 0 }) := by
  unfold State.builderStep
  split
  · exact .inl ⟨‹_›, rfl⟩
  · exact .inr ⟨Nat.le_of_not_lt ‹_›, rfl⟩

end Sys2Proof.Machine
end

