-- ==== Sys2Proof/Laws/Exec.lean ====
section
/-! SUPPORT. What an instruction and a step can do, said once: every rule about all instructions or all steps is a case
analysis over `Effect` and `StepEffect`. -/

namespace Sys2Proof.Machine

/-- Everything an instruction can do to the state. -/
inductive Effect (s : State) : State → Prop where
  /-- A read answers; NOP does too. -/
  | answer (r : Response) : Effect s (s.respond r)
  /-- A command error. -/
  | error (e : CmdError) : Effect s ((s.recordError e).respond .written)
  /-- WR.CFG. -/
  | cfg (v : Word32) :
      Effect s (State.respond { s with
        width := v.extractLsb' 0 2, refin := v.getLsbD 2, refout := v.getLsbD 3
        tvalid := false, rvalid := false } .written)
  /-- WR.STATUS. -/
  | status (d e : Bool) : Effect s ((s.acknowledge d e).respond .written)
  /-- WR.IRQEN. -/
  | irqen (d e : Bool) : Effect s (State.respond { s with ieDone := d, ieErr := e } .written)
  /-- WR.POLY. -/
  | poly (x : Word64) : Effect s ((s.writePoly x).respond .written)
  /-- WR.INIT. -/
  | init (x : Word64) : Effect s (State.respond { s with init := x } .written)
  /-- WR.XOROUT. -/
  | xorout (x : Word64) : Effect s (State.respond { s with xorout := x } .written)
  /-- WR.REVIN. -/
  | revin (x : Word64) : Effect s (State.respond { s with revin := x } .written)
  /-- WR.CRC. -/
  | crc (x : Word64) : Effect s ((s.writeCrc x).respond .written)
  /-- BUILD, not refused. -/
  | build (h : s.refin = s.refout) :
      Effect s (State.respond { s with tvalid := false, busy := true, bidx := 0 } .written)
  /-- START, not refused. -/
  | start (h : s.refin = s.refout) :
      Effect s (State.respond { s with reg := s.initReg, rvalid := true } .written)
  /-- FEED or WR.DATA, not refused. -/
  | fold (bs : List Byte) (ht : s.tvalid = true) (hr : s.rvalid = true) :
      Effect s (State.respond (bs.foldl State.foldByte s) .written)
  /-- FINAL, not refused. -/
  | final (hr : s.rvalid = true) : Effect s (State.respond { s with result := s.finalize } .written)
  /-- SRST. -/
  | srst : Effect s (s.softReset.respond .written)

theorem execBuild_effect {s t : State} (h : execBuild s = .next t) : Effect s t := by
  unfold execBuild at h
  split at h <;> cases h
  · exact .build (s.cfgOk_iff.mp ‹_›)
  · exact .error .cfg

theorem execStart_effect {s t : State} (h : execStart s = .next t) : Effect s t := by
  unfold execStart at h
  split at h <;> cases h
  · exact .start (s.cfgOk_iff.mp ‹_›)
  · exact .error .cfg

theorem execFeed_effect {s t : State} {b : Byte} (h : execFeed b s = .next t) : Effect s t := by
  unfold execFeed at h
  rcases s.feedCheck_cases with ⟨hc, _⟩ | ⟨hc, _⟩ | ⟨hc, ht, hr⟩ <;> rw [hc] at h <;> cases h
  · exact .error .noTable
  · exact .error .noReg
  · exact .fold [b] ht hr

theorem execWrData_effect {s t : State} {size : Size} {v : Word64} (h : execWrData size v s = .next t) :
    Effect s t := by
  unfold execWrData at h
  rcases s.feedCheck_cases with ⟨hc, _⟩ | ⟨hc, _⟩ | ⟨hc, ht, hr⟩ <;> rw [hc] at h <;> cases h
  · exact .error .noTable
  · exact .error .noReg
  · exact .fold (dataBytes size v) ht hr

theorem execFinal_effect {s t : State} (h : execFinal s = .next t) : Effect s t := by
  unfold execFinal at h
  split at h <;> cases h
  · exact .final ‹_›
  · exact .error .noReg

theorem execWrCmd_effect {s t : State} {c : Word32} (h : execWrCmd c s = .next t) : Effect s t := by
  unfold execWrCmd at h
  split at h
  · cases h; exact .answer .written
  · exact execBuild_effect h
  · exact execStart_effect h
  · exact execFeed_effect h
  · exact execFinal_effect h
  · cases h; exact .srst
  · cases h; exact .error .illCmd

/-- An instruction that answers a next state has one of the effects. -/
theorem exec_effect {i : Instr} {s t : State} (h : exec i s = .next t) : Effect s t := by
  cases i with
  | wrCmd c => exact execWrCmd_effect h
  | build => exact execBuild_effect h
  | start => exact execStart_effect h
  | feed b => exact execFeed_effect h
  | wrData size v => exact execWrData_effect h
  | final => exact execFinal_effect h
  | wrCfg v => cases h; exact .cfg v
  | wrStatus v => cases h; exact .status _ _
  | wrIrqen v => cases h; exact .irqen _ _
  | wrPoly8 v => cases h; exact .poly v
  | wrPoly4 hf v => cases h; exact .poly _
  | wrInit8 v => cases h; exact .init v
  | wrInit4 hf v => cases h; exact .init _
  | wrXorout8 v => cases h; exact .xorout v
  | wrXorout4 hf v => cases h; exact .xorout _
  | wrRevin8 v => cases h; exact .revin v
  | wrRevin4 hf v => cases h; exact .revin _
  | wrCrc8 v => cases h; exact .crc v
  | wrCrc4 hf v => cases h; exact .crc _
  | nop => cases h; exact .answer .written
  | srst => cases h; exact .srst
  | rdCfg => cases h; exact .answer _
  | rdStatus => cases h; exact .answer _
  | rdIrqen => cases h; exact .answer _
  | rdPoly8 => cases h; exact .answer _
  | rdPoly4 hf => cases h; exact .answer _
  | rdInit8 => cases h; exact .answer _
  | rdInit4 hf => cases h; exact .answer _
  | rdXorout8 => cases h; exact .answer _
  | rdXorout4 hf => cases h; exact .answer _
  | rdCrc8 => cases h; exact .answer _
  | rdCrc4 hf => cases h; exact .answer _
  | rdResult8 => cases h; exact .answer _
  | rdResult4 hf => cases h; exact .answer _
  | rdRevin8 => cases h; exact .answer _
  | rdRevin4 hf => cases h; exact .answer _
  | rdRevout8 => cases h; exact .answer _
  | rdRevout4 hf => cases h; exact .answer _
  | rdTable8 i => cases h; exact .answer _
  | rdTable4 i hf => cases h; exact .answer _

/-- A CMD write of a command word, and the command itself, are one effect (43_host_access.md R127). -/
theorem exec_of_performs {i cmd : Instr} (h : Performs i cmd) (s : State) : exec i s = exec cmd s := by
  rcases h with rfl | ⟨c, rfl, hc⟩
  · rfl
  · show execWrCmd c s = _
    unfold execWrCmd
    rw [hc]
    rcases decodeCmd_cases hc with rfl | rfl | rfl | ⟨b, rfl⟩ | rfl | rfl <;> rfl

/-! ### The step -/

/-- A turn with the reset input low is the port's turn. -/
theorem step_of_reset_low {s : State} (h : s.resetLine.head? ≠ some true) :
    step s = portTurn { s with resetLine := s.resetLine.tail } := by
  unfold step turn
  split <;> rename_i hl
  · rw [hl]; exact congrArg portTurn (by rw [List.tail_nil, ← hl])
  · rw [hl]; rfl
  · exact absurd (by rw [hl]; rfl) h

theorem run_succ (M : Host.Core) (k : Nat) {s t : M.State} (h : M.step s = .next t) :
    M.run (k + 1) s = M.run k t := by
  rw [Host.Core.run, h]

/-- A run of one step more is a run from the next state. -/
theorem run_of_step (k : Nat) {s t : State} (h : step s = .next t) :
    Host.Core.run Sys2Proof.core (k + 1) s = Host.Core.run Sys2Proof.core k t :=
  run_succ Sys2Proof.core k h

/-- Everything a step can do. -/
inductive StepEffect (s : State) : State → Prop where
  /-- The reset input is asserted. -/
  | reset (rest : List Bool) (h : s.resetLine = true :: rest) :
      StepEffect s (State.hwReset { s with port := s.port.tail, resetLine := rest })
  /-- No access is accepted: the builder moves if it runs. The port keeps its offers, or loses an idle one. -/
  | noAccess (port : List Offer) (rest : List Bool) :
      StepEffect s (State.builderTurn { s with port := port, resetLine := rest })
  /-- An access is answered with a bus error. -/
  | busError (r : BusError) (port : List Offer) (rest : List Bool) :
      StepEffect s (State.respond { s with port := port, resetLine := rest } (.busError r))
  /-- An access runs its instruction; during a build it is a read of STATUS. -/
  | access (i : Instr) (port : List Offer) (rest : List Bool) (t : State) (hb : s.busy = true → i = .rdStatus)
      (he : exec i { s with port := port, resetLine := rest } = .next t) : StepEffect s t

theorem portTurn_effect {s t : State} (rest : List Bool) (h : portTurn { s with resetLine := rest } = .next t) :
    StepEffect s t := by
  unfold portTurn at h
  split at h
  · cases h; exact .noAccess s.port rest
  · cases h; exact .noAccess _ rest
  · rename_i a tail hp
    split at h
    · cases h; exact .noAccess s.port rest
    · rename_i hh
      unfold performAccess at h
      split at h
      · rename_i i hi
        refine .access i tail rest t (fun hb => ?_) h
        have hs : a.isStatusRead = true := by
          simpa [State.holds, hb] using hh
        have := decodeBus_statusRead (a.isStatusRead_iff.mp hs)
        rw [this] at hi
        exact (Except.ok.inj hi).symm
      · cases h; exact .busError _ tail rest

/-- A step that answers a next state has one of the effects. -/
theorem step_effect {s t : State} (h : step s = .next t) : StepEffect s t := by
  unfold step turn at h
  split at h
  · rename_i hl
    have : s = { s with resetLine := [] } := by rw [← hl]
    rw [this] at h
    exact portTurn_effect [] h
  · exact portTurn_effect _ h
  · cases h; exact .reset _ ‹_›

end Sys2Proof.Machine
end

