-- ==== Sys2Proof/Laws/PerInstr.lean ====
section
/-! SUPPORT. Facts about every instruction as syntax, one lemma per constructor. Family TableRow: the encoding of an
instruction has the fixed bits of its row of spec/opcode_table.json. -/

namespace Sys2Proof.Laws.TableRow

/-- The encoder writes the fixed bits of the instruction's row. -/
abbrev Statement (i : Instr) : Prop := i.opcode.fits (encode i) = true

/-- The row of a write says nothing of its data. -/
theorem fits_write (mask pattern : Word16) (size : Size) (off : Offset) (v : Word64) :
    (Opcode.bus mask pattern).fits (writeCode size off v) = (descOf true size off &&& mask == pattern) := rfl

theorem rdCfg : Statement (.rdCfg) := rfl
theorem wrCfg (v : Word32) : Statement (.wrCfg v) := by
  simp only [Statement, Instr.opcode, encode, fits_write]; decide
theorem rdStatus : Statement (.rdStatus) := rfl
theorem wrStatus (v : Word32) : Statement (.wrStatus v) := by
  simp only [Statement, Instr.opcode, encode, fits_write]; decide
theorem rdIrqen : Statement (.rdIrqen) := rfl
theorem wrIrqen (v : Word32) : Statement (.wrIrqen v) := by
  simp only [Statement, Instr.opcode, encode, fits_write]; decide
theorem wrCmd (c : Word32) : Statement (.wrCmd c) := by
  simp only [Statement, Instr.opcode, encode, fits_write]; decide
theorem rdPoly8 : Statement (.rdPoly8) := rfl
theorem rdPoly4 (h : Half) : Statement (.rdPoly4 h) := by
  cases h <;> rfl
theorem wrPoly8 (v : Word64) : Statement (.wrPoly8 v) := by
  simp only [Statement, Instr.opcode, encode, fits_write]; decide
theorem wrPoly4 (h : Half) (v : Word32) : Statement (.wrPoly4 h v) := by
  cases h <;> (simp only [Statement, Instr.opcode, encode, fits_write]; decide)
theorem rdInit8 : Statement (.rdInit8) := rfl
theorem rdInit4 (h : Half) : Statement (.rdInit4 h) := by
  cases h <;> rfl
theorem wrInit8 (v : Word64) : Statement (.wrInit8 v) := by
  simp only [Statement, Instr.opcode, encode, fits_write]; decide
theorem wrInit4 (h : Half) (v : Word32) : Statement (.wrInit4 h v) := by
  cases h <;> (simp only [Statement, Instr.opcode, encode, fits_write]; decide)
theorem rdXorout8 : Statement (.rdXorout8) := rfl
theorem rdXorout4 (h : Half) : Statement (.rdXorout4 h) := by
  cases h <;> rfl
theorem wrXorout8 (v : Word64) : Statement (.wrXorout8 v) := by
  simp only [Statement, Instr.opcode, encode, fits_write]; decide
theorem wrXorout4 (h : Half) (v : Word32) : Statement (.wrXorout4 h v) := by
  cases h <;> (simp only [Statement, Instr.opcode, encode, fits_write]; decide)
theorem rdCrc8 : Statement (.rdCrc8) := rfl
theorem rdCrc4 (h : Half) : Statement (.rdCrc4 h) := by
  cases h <;> rfl
theorem wrCrc8 (v : Word64) : Statement (.wrCrc8 v) := by
  simp only [Statement, Instr.opcode, encode, fits_write]; decide
theorem wrCrc4 (h : Half) (v : Word32) : Statement (.wrCrc4 h v) := by
  cases h <;> (simp only [Statement, Instr.opcode, encode, fits_write]; decide)
theorem rdResult8 : Statement (.rdResult8) := rfl
theorem rdResult4 (h : Half) : Statement (.rdResult4 h) := by
  cases h <;> rfl
theorem rdRevin8 : Statement (.rdRevin8) := rfl
theorem rdRevin4 (h : Half) : Statement (.rdRevin4 h) := by
  cases h <;> rfl
theorem wrRevin8 (v : Word64) : Statement (.wrRevin8 v) := by
  simp only [Statement, Instr.opcode, encode, fits_write]; decide
theorem wrRevin4 (h : Half) (v : Word32) : Statement (.wrRevin4 h v) := by
  cases h <;> (simp only [Statement, Instr.opcode, encode, fits_write]; decide)
theorem rdRevout8 : Statement (.rdRevout8) := rfl
theorem rdRevout4 (h : Half) : Statement (.rdRevout4 h) := by
  cases h <;> rfl
theorem wrData (size : Size) (v : Word64) : Statement (.wrData size v) := by
  cases size <;> (simp only [Statement, Instr.opcode, encode, fits_write]; decide)
theorem rdTable8 (i : Byte) : Statement (.rdTable8 i) := by
  revert i; decide +kernel
theorem rdTable4 (i : Byte) (h : Half) : Statement (.rdTable4 i h) := by
  cases h <;> (revert i; decide +kernel)
theorem nop : Statement (.nop) := rfl
theorem build : Statement (.build) := rfl
theorem start : Statement (.start) := rfl
theorem feed (b : Byte) : Statement (.feed b) := by
  revert b; decide +kernel
theorem final : Statement (.final) := rfl
theorem srst : Statement (.srst) := rfl

end Sys2Proof.Laws.TableRow
end

