-- ==== Sys2Proof/Laws/Sarwate.lean ====
section
/-! SUPPORT. Why one table lookup is eight bit steps: the bit steps are linear over GF(2), they only shift a register
whose driving bits are 0, and bit reversal carries the normal mode to the reflected one. -/

namespace Sys2Proof.Machine

/-! ### Linearity (41_table_builder.md R97) -/

theorem normalStep_xor (W : Nat) (p a b : Word64) :
    normalStep W p (a ^^^ b) = normalStep W p a ^^^ normalStep W p b := by
  simp only [normalStep, BitVec.getLsbD_xor, BitVec.shiftLeft_xor_distrib, atWidth_xor]
  cases a.getLsbD (W - 1) <;> cases b.getLsbD (W - 1) <;>
    simp only [Bool.xor_false, Bool.xor_true, Bool.not_false, Bool.not_true, if_true, Bool.false_eq_true, if_false]
  · ac_rfl
  · ac_rfl
  · rw [show ∀ x y z : Word64, x ^^^ z ^^^ (y ^^^ z) = x ^^^ y from fun x y z => by
      rw [BitVec.xor_assoc, BitVec.xor_comm y z, ← BitVec.xor_assoc z z y, BitVec.xor_self, BitVec.zero_xor]]

theorem reflectedStep_xor (q a b : Word64) :
    reflectedStep q (a ^^^ b) = reflectedStep q a ^^^ reflectedStep q b := by
  simp only [reflectedStep, BitVec.getLsbD_xor, BitVec.ushiftRight_xor_distrib]
  cases a.getLsbD 0 <;> cases b.getLsbD 0 <;>
    simp only [Bool.xor_false, Bool.xor_true, Bool.not_false, Bool.not_true, if_true, Bool.false_eq_true, if_false]
  · ac_rfl
  · ac_rfl
  · rw [show ∀ x y z : Word64, x ^^^ z ^^^ (y ^^^ z) = x ^^^ y from fun x y z => by
      rw [BitVec.xor_assoc, BitVec.xor_comm y z, ← BitVec.xor_assoc z z y, BitVec.xor_self, BitVec.zero_xor]]

/-- A linear step repeated is linear. -/
theorem iterate_xor {f : Word64 → Word64} (hf : ∀ a b, f (a ^^^ b) = f a ^^^ f b) (n : Nat) (a b : Word64) :
    f^[n] (a ^^^ b) = f^[n] a ^^^ f^[n] b := by
  induction n generalizing a b with
  | zero => rfl
  | succ n ih => rw [Function.iterate_succ_apply, hf, ih]; rfl

/-! ### A register whose driving bits are 0 is shifted -/

theorem normalStep_iterate_shift {W : Nat} (hW : W ≤ 64) (p : Word64) (k : Nat) (hk : k ≤ W) (c : Word64)
    (hc : c.toNat < 2 ^ (W - k)) : (normalStep W p)^[k] c = c <<< k := by
  induction k generalizing c with
  | zero => simp
  | succ k ih =>
    have hle : 2 * 2 ^ (W - (k + 1)) ≤ 2 ^ (W - k) := by
      rw [← Nat.pow_succ']; exact Nat.pow_le_pow_right (by decide) (by omega)
    have hp : 2 ^ (W - k) ≤ 2 ^ W := Nat.pow_le_pow_right (by decide) (by omega)
    have h64 : 2 ^ W ≤ 2 ^ 64 := Nat.pow_le_pow_right (by decide) hW
    have hs : (c <<< 1).toNat = 2 * c.toNat := by
      rw [BitVec.toNat_shiftLeft, Nat.shiftLeft_eq]; omega
    have htop : c.getLsbD (W - 1) = false := by
      apply Nat.testBit_lt_two_pow
      exact Nat.lt_of_lt_of_le hc (Nat.pow_le_pow_right (by decide) (by omega))
    have hstep : normalStep W p c = c <<< 1 := by
      rw [normalStep, htop]
      exact atWidth_eq_self hW (by omega)
    rw [Function.iterate_succ_apply, hstep, ih (by omega) (c <<< 1) (by omega), ← BitVec.shiftLeft_add,
      Nat.add_comm]

theorem reflectedStep_iterate_shift (q : Word64) (k : Nat) (c : Word64)
    (hc : ∀ j, j < k → c.getLsbD j = false) : (reflectedStep q)^[k] c = c >>> k := by
  induction k generalizing c with
  | zero => simp
  | succ k ih =>
    have hstep : reflectedStep q c = c >>> 1 := by
      rw [reflectedStep, hc 0 (by omega)]; rfl
    have hnext : ∀ j, j < k → (c >>> 1).getLsbD j = false := fun j hj => by
      rw [BitVec.getLsbD_ushiftRight]; exact hc (1 + j) (by omega)
    rw [Function.iterate_succ_apply, hstep, ih _ hnext, ← BitVec.shiftRight_add, Nat.add_comm]

/-! ### The lookup (42_streaming.md R103) -/

/-- Eight reflected bit steps are a shift and one lookup by the low byte. -/
theorem reflected_lookup (W : Nat) (p c : Word64) :
    (reflectedStep (rev W p))^[8] c = (c >>> 8) ^^^ entry W p true (c.setWidth 8) := by
  have hsplit : c = (c &&& ~~~ 0xFF#64) ^^^ (c.setWidth 8).setWidth 64 := by
    apply BitVec.eq_of_getLsbD_eq
    intro j hj
    have hm : (0xFF#64).getLsbD j = decide (j < 8) := by
      revert j; decide
    simp only [BitVec.getLsbD_xor, BitVec.getLsbD_and, BitVec.getLsbD_not, BitVec.getLsbD_setWidth, hm, hj]
    by_cases h : j < 8 <;> simp [h]
  have hshift : (c &&& ~~~ 0xFF#64) >>> 8 = c >>> 8 := by
    apply BitVec.eq_of_getLsbD_eq
    intro j hj
    simp only [BitVec.getLsbD_ushiftRight, BitVec.getLsbD_and, BitVec.getLsbD_not]
    by_cases h : 8 + j < 64
    · have hm : (0xFF#64).getLsbD (8 + j) = false := by
        have : ∀ i, 8 ≤ i → i < 64 → (0xFF#64).getLsbD i = false := by decide
        exact this _ (by omega) h
      rw [hm]; simp only [h, decide_true, Bool.not_false, Bool.and_true]
    · have : c.getLsbD (8 + j) = false := BitVec.getLsbD_of_ge c _ (by omega)
      simp [this]
  have hlow : ∀ j, j < 8 → (c &&& ~~~ 0xFF#64).getLsbD j = false := by
    intro j hj
    have hm : (0xFF#64).getLsbD j = true := by
      have : ∀ i, i < 8 → (0xFF#64).getLsbD i = true := by decide
      exact this j hj
    simp only [BitVec.getLsbD_and, BitVec.getLsbD_not, hm, Bool.not_true, Bool.and_false]
  conv_lhs => rw [hsplit]
  rw [iterate_xor (reflectedStep_xor _), reflectedStep_iterate_shift _ 8 _ hlow, hshift]
  rfl

/-- Eight normal bit steps of a register of W bits are a shift and one lookup by its high byte. -/
theorem normal_lookup {W : Nat} (h8 : 8 ≤ W) (hW : W ≤ 64) (p c : Word64) (hc : c.toNat < 2 ^ W) :
    (normalStep W p)^[8] c = atWidth W (c <<< 8) ^^^ entry W p false (c.extractLsb' (W - 8) 8) := by
  have hz : ∀ j, W ≤ j → c.getLsbD j = false := fun j hj =>
    Nat.testBit_lt_two_pow (Nat.lt_of_lt_of_le hc (Nat.pow_le_pow_right (by decide) hj))
  have hsplit : c = atWidth (W - 8) c ^^^ ((c.extractLsb' (W - 8) 8).setWidth 64 <<< (W - 8)) := by
    apply BitVec.eq_of_getLsbD_eq
    intro j hj
    simp only [BitVec.getLsbD_xor, atWidth_getLsbD (show W - 8 ≤ 64 by omega), BitVec.getLsbD_shiftLeft,
      BitVec.getLsbD_setWidth, BitVec.getLsbD_extractLsb']
    by_cases h : j < W - 8
    · simp [h]
    · by_cases hw : j < W
      · have h1 : j - (W - 8) < 8 := by omega
        have h2 : j - (W - 8) < 64 := by omega
        have h3 : W - 8 + (j - (W - 8)) = j := by omega
        simp [h, h1, h2, h3, hj]
      · have h1 : ¬ j - (W - 8) < 8 := by omega
        simp [h, h1, hz j (by omega)]
  have hshift : atWidth (W - 8) c <<< 8 = atWidth W (c <<< 8) := by
    apply BitVec.eq_of_getLsbD_eq
    intro j hj
    simp only [BitVec.getLsbD_shiftLeft, atWidth_getLsbD (show W - 8 ≤ 64 by omega), atWidth_getLsbD hW]
    by_cases h : j < 8
    · simp [h]
    · by_cases hw : j < W
      · have : j - 8 < W - 8 := by omega
        simp [h, hw, this]
      · have : ¬ j - 8 < W - 8 := by omega
        simp [hw, this]
  conv_lhs => rw [hsplit]
  rw [iterate_xor (normalStep_xor W p),
    normalStep_iterate_shift hW p 8 h8 _ (atWidth_lt (by omega) c), hshift]
  rfl

/-! ### Bit reversal carries the normal mode to the reflected mode -/

theorem rev_normalStep {W : Nat} (h1 : 1 ≤ W) (hW : W ≤ 64) (p c : Word64) :
    rev W (normalStep W p c) = reflectedStep (rev W p) (rev W c) := by
  have hbit : (rev W c).getLsbD 0 = c.getLsbD (W - 1) := by
    rw [rev_getLsbD hW]; simp [show 0 < W by omega]
  have hshift : rev W (atWidth W (c <<< 1)) = rev W c >>> 1 := by
    apply BitVec.eq_of_getLsbD_eq
    intro j hj
    simp only [rev_getLsbD hW, atWidth_getLsbD hW, BitVec.getLsbD_ushiftRight, BitVec.getLsbD_shiftLeft]
    by_cases h : j < W
    · by_cases h' : 1 + j < W
      · have e1 : W - 1 - j < W := by omega
        have e2 : W - 1 - j < 64 := by omega
        have e3 : ¬ W - 1 - j < 1 := by omega
        have e4 : W - 1 - j - 1 = W - 1 - (1 + j) := by omega
        simp only [h, h', e1, e2, e3, e4, decide_true, decide_false, Bool.true_and, Bool.not_false]
      · have e3 : W - 1 - j < 1 := by omega
        simp [h', e3]
    · simp [h, show ¬ 1 + j < W by omega]
  have hp : rev W (atWidth W p) = rev W p := by
    apply BitVec.eq_of_getLsbD_eq
    intro j hj
    simp only [rev_getLsbD hW, atWidth_getLsbD hW]
    by_cases h : j < W
    · simp [h, show W - 1 - j < W by omega]
    · simp [h]
  unfold normalStep reflectedStep
  rw [hbit]
  split
  · rw [atWidth_xor, rev_xor hW, hshift, hp]
  · exact hshift

/-- Reversing a register after normal bit steps is reflected bit steps on the reversed register. -/
theorem rev_normalStep_iterate {W : Nat} (h1 : 1 ≤ W) (hW : W ≤ 64) (p : Word64) (n : Nat) (c : Word64) :
    rev W ((normalStep W p)^[n] c) = (reflectedStep (rev W p))^[n] (rev W c) := by
  induction n generalizing c with
  | zero => rfl
  | succ n ih => rw [Function.iterate_succ_apply, ih, rev_normalStep h1 hW, ← Function.iterate_succ_apply]

end Sys2Proof.Machine
end

