-- ==== Sys2Proof/Tests/Slice0.lean ====
section
/-! SUPPORT. The model's own tests: the WellFormed smoke test, words written out from 30_encoding.md, the vectors of
95_test_vectors.md one step at a time, and a witness for the hypotheses of every obligation that has some. -/

open Sys2Proof Sys2Proof.Machine

namespace Sys2Proof.Tests

/-! ### Helpers -/

/-- The next state, where there is one. -/
def after (o : Outcome) : Option State :=
  match o with
  | .next t => some t
  | .fault _ => none
  | .refused _ => none

/-- The table a record builds. -/
def tableOf (width : BitVec 2) (p : Word64) (r : Bool) : Vector Word64 256 :=
  Vector.ofFn fun i => entry (widthOf width) p r (BitVec.ofFin i)

/-- A state with a valid table and register for a coupled record, REG as given. -/
def streamState (width : BitVec 2) (r : Bool) (p reg : Word64) : State :=
  { State.reset with
    width := width, refin := r, refout := r, poly := p, reg := reg
    table := tableOf width p r, tvalid := true, rvalid := true }

/-- The entries of the table of a record at the given indices, the others 0: all that a test which looks up those
indices needs, and quick to evaluate. -/
def someEntries (width : BitVec 2) (p : Word64) (r : Bool) (indices : List Byte) : Vector Word64 256 :=
  indices.foldl (fun t i => t.set i.toNat (entry (widthOf width) p r i) i.isLt) (Vector.replicate 256 0)

/-- A state with a valid table and register, of whose table the test looks up the given indices. -/
def lookupState (width : BitVec 2) (r : Bool) (p reg : Word64) (indices : List Byte) : State :=
  { State.reset with
    width := width, refin := r, refout := r, poly := p, reg := reg
    table := someEntries width p r indices, tvalid := true, rvalid := true }

/-- A state whose table is being built, entry `n` next. -/
def buildState (n : BitVec 9) : State :=
  { State.reset with width := 1, poly := 0x1021, busy := true, bidx := n, table := Vector.replicate 256 0 }

/-! ### WellFormed (30_encoding.md R61, R67) -/

theorem test_wellFormed_refuses_data_wider_than_its_size : ¬ (Instr.wrData .two 0x10000).WellFormed := by decide
theorem test_wellFormed_accepts_data_of_its_size : (Instr.wrData .two 0xFFFF).WellFormed := by decide

/-! ### Decoding: words written out from 30_encoding.md R61 to R65 and the descriptors of 43_host_access.md -/

theorem test_decode_reg32 :
    decode (.bus ⟨0b0_10_0_0000_0000_0000, 0⟩) = .ok .rdCfg ∧
    decode (.bus ⟨0b1_10_0_0000_0000_0000, 0xFFFFFFFD⟩) = .ok (.wrCfg 0xFFFFFFFD) ∧
    decode (.bus ⟨0b0_10_0_0000_0000_0100, 0⟩) = .ok .rdStatus ∧
    decode (.bus ⟨0b1_10_0_0000_0000_0100, 0x18⟩) = .ok (.wrStatus 0x18) ∧
    decode (.bus ⟨0b0_10_0_0000_0000_1000, 0⟩) = .ok .rdIrqen ∧
    decode (.bus ⟨0b1_10_0_0000_0000_1000, 3⟩) = .ok (.wrIrqen 3) ∧
    decode (.bus ⟨0b1_10_0_0000_0000_1100, 0x3103⟩) = .ok (.wrCmd 0x3103) := by decide

theorem test_decode_poly_init :
    decode (.bus ⟨0x6010, 0⟩) = .ok .rdPoly8 ∧ decode (.bus ⟨0x4010, 0⟩) = .ok (.rdPoly4 .low) ∧
    decode (.bus ⟨0x4014, 0⟩) = .ok (.rdPoly4 .high) ∧
    decode (.bus ⟨0xE010, 0xFFFF1021⟩) = .ok (.wrPoly8 0xFFFF1021) ∧
    decode (.bus ⟨0xC010, 0x04C11DB7⟩) = .ok (.wrPoly4 .low 0x04C11DB7) ∧
    decode (.bus ⟨0xC014, 0xAAAAAAAA⟩) = .ok (.wrPoly4 .high 0xAAAAAAAA) ∧
    decode (.bus ⟨0x6018, 0⟩) = .ok .rdInit8 ∧ decode (.bus ⟨0x401C, 0⟩) = .ok (.rdInit4 .high) ∧
    decode (.bus ⟨0xE018, 0xFFFF⟩) = .ok (.wrInit8 0xFFFF) ∧
    decode (.bus ⟨0xC01C, 7⟩) = .ok (.wrInit4 .high 7) := by decide

theorem test_decode_xorout_crc_result :
    decode (.bus ⟨0x6020, 0⟩) = .ok .rdXorout8 ∧ decode (.bus ⟨0x4020, 0⟩) = .ok (.rdXorout4 .low) ∧
    decode (.bus ⟨0xE020, 1⟩) = .ok (.wrXorout8 1) ∧
    decode (.bus ⟨0xC024, 0xFFFFFFFF⟩) = .ok (.wrXorout4 .high 0xFFFFFFFF) ∧
    decode (.bus ⟨0x6028, 0⟩) = .ok .rdCrc8 ∧ decode (.bus ⟨0x402C, 0⟩) = .ok (.rdCrc4 .high) ∧
    decode (.bus ⟨0xE028, 0x12345678⟩) = .ok (.wrCrc8 0x12345678) ∧
    decode (.bus ⟨0xC028, 0⟩) = .ok (.wrCrc4 .low 0) ∧
    decode (.bus ⟨0x6030, 0⟩) = .ok .rdResult8 ∧ decode (.bus ⟨0x4034, 0⟩) = .ok (.rdResult4 .high) := by decide

theorem test_decode_rev_data_table :
    decode (.bus ⟨0x6040, 0⟩) = .ok .rdRevin8 ∧ decode (.bus ⟨0x4044, 0⟩) = .ok (.rdRevin4 .high) ∧
    decode (.bus ⟨0xE040, 0x8005⟩) = .ok (.wrRevin8 0x8005) ∧
    decode (.bus ⟨0xC040, 1⟩) = .ok (.wrRevin4 .low 1) ∧
    decode (.bus ⟨0x6048, 0⟩) = .ok .rdRevout8 ∧ decode (.bus ⟨0x404C, 0⟩) = .ok (.rdRevout4 .high) ∧
    decode (.bus ⟨0x8038, 0x39⟩) = .ok (.wrData .one 0x39) ∧
    decode (.bus ⟨0xA038, 0x3231⟩) = .ok (.wrData .two 0x3231) ∧
    decode (.bus ⟨0xC038, 0x34333231⟩) = .ok (.wrData .four 0x34333231) ∧
    decode (.bus ⟨0xE038, 0x3837363534333231⟩) = .ok (.wrData .eight 0x3837363534333231) ∧
    decode (.bus ⟨0x6808, 0⟩) = .ok (.rdTable8 1) ∧ decode (.bus ⟨0x6FF8, 0⟩) = .ok (.rdTable8 0xFF) ∧
    decode (.bus ⟨0x480C, 0⟩) = .ok (.rdTable4 1 .high) := by decide

theorem test_decode_commands :
    decode (.cmd 0b00000000000000000000000000000000) = .ok .nop ∧
    decode (.cmd 0b00000000000000000000000000000001) = .ok .build ∧
    decode (.cmd 0b00000000000000000000000000000010) = .ok .start ∧
    decode (.cmd 0b00000000000000000011000100000011) = .ok (.feed 0x31) ∧
    decode (.cmd 0b00000000000000000000000000000100) = .ok .final ∧
    decode (.cmd 0b00000000000000000000000000000101) = .ok .srst := by decide

/-- The illegal command words of 95_test_vectors.md §2.8. -/
theorem test_decode_illegal_commands :
    [0x00000006, 0x000000FF, 0x00000101, 0x00010002, 0x00010003, 0x00000106].map (fun c => decode (.cmd c)) =
      List.replicate 6 .illegalCommand := by decide +kernel

/-- The bus errors of 95_test_vectors.md §2.9. -/
theorem test_decode_bus_errors :
    [0x0000, 0x2004, 0xE00C, 0x4012, 0x6014, 0x2010, 0x8030, 0x0800, 0x6804, 0x4806].map
      (fun d => decode (.bus ⟨d, 0⟩)) = List.replicate 10 (.illegalAccess .size) ∧
    [0x400C, 0x0038, 0x6038].map (fun d => decode (.bus ⟨d, 0⟩)) = List.replicate 3 (.illegalAccess .wo) ∧
    [0xC03C, 0xA03A, 0xC002, 0x4050, 0x67F8, 0x47FC, 0x5000].map (fun d => decode (.bus ⟨d, 0⟩)) =
      List.replicate 7 (.illegalAccess .unmapped) ∧
    [0xE030, 0xE048, 0xC04C, 0xE800, 0x8800].map (fun d => decode (.bus ⟨d, 0⟩)) =
      List.replicate 5 (.illegalAccess .ro) := by decide +kernel

/-- No code has the fixed bits of both rows. -/
def apart (a b : Opcode) : Bool :=
  match a, b with
  | .bus m p, .bus n q => p &&& n != q &&& m
  | .cmd m p, .cmd n q => p &&& n != q &&& m
  | .bus _ _, .cmd _ _ => true
  | .cmd _ _, .bus _ _ => true

theorem test_opcodeTable_rows_do_not_overlap :
    opcodeTable.length = 40 ∧ opcodeTable.Pairwise (apart · ·) := by decide +kernel

theorem test_decodeTableWord :
    decodeTableWord 16 0xC00C = some (.wrCmd 0) ∧ decodeTableWord 32 0x3103 = some (.feed 0x31) ∧
    decodeTableWord 16 0x5000 = none ∧ decodeTableWord 32 0x106 = none := by decide

/-- The encodings of program lines of 95_test_vectors.md §3. -/
theorem test_script_lines :
    scriptWrite .four (.reg32 .cfg) 0x1 = some ⟨0xC000, 0x1⟩ ∧
    scriptWrite .eight (.reg64 .poly) 0x1021 = some ⟨0xE010, 0x1021⟩ ∧
    scriptRead .four (.reg64Half .result .high) = some ⟨0x4034, 0⟩ ∧
    scriptRead .eight (.table 128) = some ⟨0x6C00, 0⟩ ∧
    scriptRead .four (.tableHalf 1 .high) = some ⟨0x480C, 0⟩ ∧
    scriptRead .eight (.reg64Half .result .high) = none ∧
    Pseudo.expand (.cmdFeed 0x31) = [⟨0xC00C, 0x3103⟩] ∧
    Pseudo.expand (.setcfg 1 true) = [⟨0xC000, 0xD⟩] ∧ Pseudo.expand .clrdone = [⟨0xC004, 0x8⟩] ∧
    feedStr [0x31, 0x32, 0x33, 0x34, 0x35, 0x36, 0x37, 0x38, 0x39] =
      [⟨0xE038, 0x3837363534333231⟩, ⟨0x8038, 0x39⟩] := by decide

/-! ### Bit reversal and table entries (95_test_vectors.md §2.1, §2.2) -/

theorem test_rev_vectors :
    rev 8 0x31 = 0x8C ∧ rev 8 0xA5 = 0xA5 ∧ rev 16 0x8005 = 0xA001 ∧ rev 16 0xABCD = 0xB3D5 ∧
    rev 32 0x04C11DB7 = 0xEDB88320 ∧ rev 64 0x0123456789ABCDEF = 0xF7B3D591E6A2C480 := by decide +kernel

theorem test_entries_reflected :
    entry 8 0x31 true 0x01 = 0x5E ∧ entry 8 0x31 true 0xFF = 0x35 ∧ entry 16 0x8005 true 0x10 = 0xCC01 ∧
    entry 32 0x04C11DB7 true 0xFF = 0x2D02EF8D ∧
    entry 64 0x42F0E1EBA9EA3693 true 0xFF = 0xE0ADA17364673F59 := by decide +kernel

theorem test_entries_normal :
    entry 8 0x2F false 0xFF = 0x42 ∧ entry 16 0x1021 false 0x80 = 0x9188 ∧ entry 16 0x1021 false 0xFF = 0x1EF0 ∧
    entry 32 0x04C11DB7 false 0xFF = 0xB1F740B4 ∧
    entry 64 0x42F0E1EBA9EA3693 false 0x10 = 0x663D78FF90E185EF := by decide +kernel

/-! ### Register accesses (95_test_vectors.md §2.7, 43_host_access.md) -/

theorem test_rdCfg_coupled :
    (after (execRdCfg { State.reset with width := 1, refin := true, refout := true })).map (·.resp) =
      some (some (.word32 0xD)) := by decide
theorem test_wrCfg_drops_reserved_bits :
    (after (execWrCfg 0xFFFFFFFD (streamState 0 false 7 0))).map
      (fun t => (t.width, t.refin, t.refout, t.tvalid, t.rvalid)) = some (1, true, true, false, false) := by decide
theorem test_rdStatus_after_build_with_irq :
    (after (execRdStatus { State.reset with tvalid := true, done := true, ieDone := true })).map (·.resp) =
      some (some (.word32 0x0000080A)) := by decide
theorem test_rdStatus_with_error :
    (after (execRdStatus { State.reset with tvalid := true, err := 4, ieErr := true })).map (·.resp) =
      some (some (.word32 0x00000C02)) := by decide
theorem test_wrStatus_clears_both :
    (after (execWrStatus 0x18 { State.reset with done := true, err := 3 })).map (fun t => (t.done, t.err)) =
      some (false, 0) := by decide
theorem test_wrStatus_ignores_other_bits :
    (after (execWrStatus 0x7 { State.reset with done := true, err := 3 })).map (fun t => (t.done, t.err)) =
      some (true, 3) := by decide
theorem test_rdIrqen :
    (after (execRdIrqen { State.reset with ieErr := true })).map (·.resp) = some (some (.word32 2)) := by decide
theorem test_wrIrqen_raises_irq :
    (after (execWrIrqen 0x1 { State.reset with done := true })).map (fun t => (t.irq, t.ieErr)) =
      some (true, false) := by decide
theorem test_wrCmd_illegal_before_cfg :
    (after (execWrCmd 0x106 { State.reset with refin := true })).map (·.err) = some 1 := by decide
theorem test_wrCmd_runs_start :
    (after (execWrCmd 0x2 { State.reset with width := 1, init := 0xFFFF00000000ABCD })).map
      (fun t => (t.reg, t.rvalid)) = some (0xABCD, true) := by decide

theorem test_rdPoly8_keeps_stray_bits :
    (after (execRdPoly8 { State.reset with poly := 0xFFFF1021 })).map (·.resp) =
      some (some (.word64 0xFFFF1021)) := by decide
theorem test_rdPoly4_high :
    (after (execRdPoly4 .high { State.reset with poly := 0xAAAAAAAA22222222 })).map (·.resp) =
      some (some (.word32 0xAAAAAAAA)) := by decide
theorem test_wrPoly8_clears_tvalid :
    (after (execWrPoly8 0xFFFF1021 (streamState 1 false 0x1021 0))).map (fun t => (t.poly, t.tvalid, t.rvalid)) =
      some (0xFFFF1021, false, true) := by decide
theorem test_wrPoly4_high_keeps_low :
    (after (execWrPoly4 .high 0xAAAAAAAA { State.reset with poly := 0x1111111122222222 })).map (·.poly) =
      some 0xAAAAAAAA22222222 := by decide
theorem test_rdInit8 :
    (after (execRdInit8 { State.reset with init := 0xFFFF })).map (·.resp) = some (some (.word64 0xFFFF)) := by decide
theorem test_rdInit4_low :
    (after (execRdInit4 .low { State.reset with init := 0x500000006 })).map (·.resp) =
      some (some (.word32 6)) := by decide
theorem test_wrInit8 :
    (after (execWrInit8 0xFFFF State.reset)).map (fun t => (t.init, t.reg, t.rvalid)) =
      some (0xFFFF, 0, false) := by decide
theorem test_wrInit4_low :
    (after (execWrInit4 .low 0x9 { State.reset with init := 0x500000006 })).map (·.init) =
      some 0x500000009 := by decide
theorem test_rdXorout8 :
    (after (execRdXorout8 { State.reset with xorout := 0xFF })).map (·.resp) = some (some (.word64 0xFF)) := by decide
theorem test_rdXorout4_high :
    (after (execRdXorout4 .high { State.reset with xorout := 0x500000006 })).map (·.resp) =
      some (some (.word32 5)) := by decide
theorem test_wrXorout8 : (after (execWrXorout8 0xFF State.reset)).map (·.xorout) = some 0xFF := by decide
theorem test_wrXorout4_high :
    (after (execWrXorout4 .high 0xFFFFFFFF { State.reset with xorout := 0xFFFFFFFF })).map (·.xorout) =
      some 0xFFFFFFFFFFFFFFFF := by decide
theorem test_rdCrc8 :
    (after (execRdCrc8 { State.reset with reg := 0x30BA })).map (·.resp) = some (some (.word64 0x30BA)) := by decide
theorem test_rdCrc4_low :
    (after (execRdCrc4 .low { State.reset with reg := 0x500000006 })).map (·.resp) =
      some (some (.word32 6)) := by decide
theorem test_wrCrc8_masks :
    (after (execWrCrc8 0x12345678 { State.reset with width := 1 })).map (fun t => (t.reg, t.rvalid)) =
      some (0x5678, true) := by decide
theorem test_wrCrc4_high_masked_away :
    (after (execWrCrc4 .high 0xFFFFFFFF { State.reset with width := 2, reg := 0x12345678 })).map (·.reg) =
      some 0x12345678 := by decide
theorem test_rdResult8 :
    (after (execRdResult8 { State.reset with result := 0x31C3 })).map (·.resp) =
      some (some (.word64 0x31C3)) := by decide
theorem test_rdResult4_high :
    (after (execRdResult4 .high { State.reset with result := 0x995DC9BBDF1939FA })).map (·.resp) =
      some (some (.word32 0x995DC9BB)) := by decide
theorem test_rdRevin8 :
    (after (execRdRevin8 { State.reset with revin := 0x8005 })).map (·.resp) =
      some (some (.word64 0x8005)) := by decide
theorem test_rdRevin4_high :
    (after (execRdRevin4 .high { State.reset with revin := 0x500000006 })).map (·.resp) =
      some (some (.word32 5)) := by decide
theorem test_wrRevin8 : (after (execWrRevin8 0x8005 State.reset)).map (·.revin) = some 0x8005 := by decide
theorem test_wrRevin4_low :
    (after (execWrRevin4 .low 1 { State.reset with revin := 0x500000006 })).map (·.revin) =
      some 0x500000001 := by decide
theorem test_rdRevout8_at_width_16 :
    (after (execRdRevout8 { State.reset with width := 1, revin := 0xFFFF00000000ABCD })).map (·.resp) =
      some (some (.word64 0xB3D5)) := by decide +kernel
theorem test_rdRevout4_high_at_width_64 :
    (after (execRdRevout4 .high { State.reset with width := 3, revin := 0xFFFF00000000ABCD })).map (·.resp) =
      some (some (.word32 0xB3D50000)) := by decide +kernel
theorem test_rdTable8 :
    (after (execRdTable8 1 (lookupState 3 true 0x42F0E1EBA9EA3693 0 [1]))).map (·.resp) =
      some (some (.word64 0xB32E4CBE03A75F6F)) := by decide +kernel
theorem test_rdTable4_high :
    (after (execRdTable4 1 .high (lookupState 3 true 0x42F0E1EBA9EA3693 0 [1]))).map (·.resp) =
      some (some (.word32 0xB32E4CBE)) := by decide +kernel

/-! ### Commands (95_test_vectors.md §2.2 to §2.8) -/

theorem test_nop : execNop State.reset = .next (State.reset.respond .written) := rfl
theorem test_build_starts :
    (after (execBuild (streamState 1 false 0x1021 0x30BA))).map (fun t => (t.busy, t.tvalid, t.rvalid, t.reg)) =
      some (true, false, true, 0x30BA) := by decide
theorem test_build_refuses_uncoupled :
    (after (execBuild { State.reset with refin := true, tvalid := true })).map
      (fun t => (t.err, t.busy, t.tvalid)) = some (2, false, true) := by decide
theorem test_start_reflects_init :
    (after (execStart { State.reset with width := 2, refin := true, refout := true, init := 0xFFFF00000000ABCD })).map
      (fun t => (t.reg, t.rvalid)) = some (0xB3D50000, true) := by decide +kernel
theorem test_start_refuses_uncoupled :
    (after (execStart { State.reset with refout := true, reg := 5 })).map (fun t => (t.err, t.reg, t.rvalid)) =
      some (2, 5, false) := by decide
theorem test_feed_normal :
    (after (execFeed 0x00 (lookupState 1 false 0x1021 0x1234 [0x12]))).map (·.reg) = some 0x0673 := by decide +kernel
theorem test_feed_reflected :
    (after (execFeed 0x31 (lookupState 3 true 0x42F0E1EBA9EA3693 0xFFFFFFFFFFFFFFFF [0xCE]))).map (·.reg) =
      some 0xD5D0F17A6B6A3512 := by decide +kernel
theorem test_data_four_bytes_in_order :
    (after (execWrData .four 0x31323334 (lookupState 1 false 0x1021 0 [0x34, 0x45, 0xFD, 0x6E]))).map (·.reg) =
      some 0x3F68 := by decide +kernel
theorem test_data_two_bytes_reflected :
    (after (execWrData .two 0x3231 (lookupState 1 true 0x8005 0xFFFF [0xCE, 0x4C]))).map (·.reg) =
      some 0xF595 := by decide +kernel
theorem test_final_masks_xorout :
    (after (execFinal { State.reset with width := 1, reg := 0x1234, xorout := 0xFFFFFFFFFFFF0F0F, rvalid := true })).map
      (fun t => (t.result, t.reg)) = some (0x1D3B, 0x1234) := by decide
theorem test_final_keeps_the_first_error :
    (after (execFinal { State.reset with err := 1, result := 7 })).map (fun t => (t.err, t.result)) =
      some (1, 7) := by decide
theorem test_srst_keeps_the_table :
    (after (execSrst { lookupState 1 false 0x1021 9 [0xFF] with err := 1, done := true, ieErr := true })).map
      (fun t => (t.err, t.done, t.tvalid, t.irq, t.entryAt 0xFF)) =
      some (0, false, false, false, 0x1EF0) := by decide +kernel

/-! ### Steps -/

theorem test_step_builder_writes_its_entry :
    (after (step (buildState 0xFF))).map (fun t => (t.bidx, t.entryAt 0xFF, t.busy)) =
      some (0x100, 0x1EF0, true) := by decide +kernel
theorem test_step_builder_completes :
    (after (step (buildState 0x100))).map (fun t => (t.bidx, t.busy, t.tvalid, t.done)) =
      some (0, false, true, true) := by decide
theorem test_step_holds_a_write_while_busy :
    (after (step { buildState 0x100 with port := [.access ⟨0xE010, 7⟩] })).map
      (fun t => (t.poly, t.port, t.resp)) = some (0x1021, [.access ⟨0xE010, 7⟩], none) := by decide
theorem test_step_answers_status_while_busy :
    (after (step { buildState 3 with port := [.access ⟨0x4004, 0⟩] })).map (fun t => (t.bidx, t.port, t.resp)) =
      some (3, [], some (.word32 1)) := by decide
theorem test_step_bus_error_changes_no_state :
    step { State.reset with port := [.access ⟨0xE030, 0⟩] } =
      .next { State.reset with resp := some (.busError .ro) } := rfl
theorem test_step_reset_abandons_the_build :
    (after (step { buildState 3 with resetLine := [true], port := [.access ⟨0x6010, 0⟩] })).map
      (fun t => (t.busy, t.poly, t.port, t.resp, t.resets)) = some (false, 0, [], none, 2) := by decide +kernel
theorem test_step_runs_the_fetch_word :
    (after (step (State.reset.withFetchWord 32 0x00003103))).map (·.err) = some 3 ∧
    (after (step (State.reset.withFetchWord 16 0x4004))).map (·.resp) = some (some (.word32 0)) := by decide

theorem feed_goes_on (b : Byte) (s : State) (ht : s.tvalid = true) (hr : s.rvalid = true) :
    exec (.feed b) s = .next ((s.foldByte b).respond .written) := by
  simp [exec, execFeed, State.feedCheck, ht, hr, State.written]

/-! ### Witnesses: the hypotheses of the obligations can be met, each clause at an edge of its range -/

theorem witness_DecodeOfEncodeIsTheInstruction : (Instr.wrData .one 0xFF).WellFormed := by decide

theorem witness_EncodeOfDecodeIsTheCanonicalCode :
    decode (.bus ⟨0xA038, 0xFF3231⟩) = .ok (.wrData .two 0x3231) := by decide

theorem witness_DecodingFollowsTheOpcodeTable :
    decode (.bus ⟨0x6FF8, 0⟩) = .ok (.rdTable8 0xFF) ∧
    (Opcode.bus 0xF807 0x6800) ∈ opcodeTable ∧ (Opcode.bus 0xF807 0x6800).fits (.bus ⟨0x6FF8, 0⟩) = true := by
  decide

/-- Each reason at the edges of its ranges, and the legal accesses beside them (30_encoding.md R63, R70). -/
theorem witness_IllegalAccessesByReason :
    [0x5000, 0x4001, 0xC00F, 0x8039, 0x803F, 0x4050, 0x67F8, 0x47FF].map (fun d => decodeBus ⟨d, 0⟩) =
      List.replicate 8 (.error .unmapped) ∧
    [0x2000, 0x600C, 0x0010, 0x6014, 0x4037, 0x4041, 0x204F, 0x0800, 0x6FFC, 0x4FFF].map
      (fun d => decodeBus ⟨d, 0⟩) = List.replicate 10 (.error .size) ∧
    [0xE030, 0xC034, 0xE048, 0xC04C, 0x8800, 0x8FFF].map (fun d => decodeBus ⟨d, 0⟩) =
      List.replicate 6 (.error .ro) ∧
    [0x0038, 0x6038, 0x400C].map (fun d => decodeBus ⟨d, 0⟩) = List.replicate 3 (.error .wo) ∧
    decodeBus ⟨0x6010, 0⟩ = .ok .rdPoly8 ∧ decodeBus ⟨0x404C, 0⟩ = .ok (.rdRevout4 .high) ∧
    decodeBus ⟨0x6800, 0⟩ = .ok (.rdTable8 0) := by decide +kernel

theorem witness_WriteOfCmdRunsTheCommand :
    decodeCmd 0x0000FF03 = some (.feed 0xFF) ∧ decodeCmd 0x00000005 = some .srst := by decide

theorem witness_IllegalCommandWordRaisesIllcmd :
    6 ≤ (0x00000006#32).toNat % 2 ^ 8 ∧ 2 ^ 16 ≤ (0x00010000#32).toNat ∧
    ((0x00000100#32).toNat / 2 ^ 8 % 2 ^ 8 ≠ 0 ∧ (0x00000100#32).toNat % 2 ^ 8 ≠ 3) ∧
    ¬ (6 ≤ (0x0000FF03#32).toNat % 2 ^ 8 ∨ 2 ^ 16 ≤ (0x0000FF03#32).toNat ∨
      ((0x0000FF03#32).toNat / 2 ^ 8 % 2 ^ 8 ≠ 0 ∧ (0x0000FF03#32).toNat % 2 ^ 8 ≠ 3)) := by decide

theorem witness_ResetAndSoftResetValues : State.reset.busy = false := rfl

/-- During a build, with a STATUS read offered, and with reset low by name. -/
theorem witness_StepRunsTheDecodedInstruction :
    ∃ (s : State) (a : Access), s.port = .access a :: [] ∧ s.resetLine.head? ≠ some true ∧
      (s.busy = false ∨ a.desc = 0x4004) ∧ s.busy = true ∧ decodeBus a = .ok .rdStatus :=
  ⟨{ buildState 3 with port := [.access ⟨0x4004, 0⟩], resetLine := [false] }, ⟨0x4004, 0⟩, by decide⟩

theorem witness_StepRunsTheDecodedInstruction_idle :
    ∃ (s : State) (a : Access), s.port = .access a :: [] ∧ s.resetLine.head? ≠ some true ∧
      (s.busy = false ∨ a.desc = 0x4004) ∧ decodeBus a = .ok (.wrCmd 1) :=
  ⟨{ State.reset with port := [.access ⟨0xC00C, 1⟩] }, ⟨0xC00C, 1⟩, by decide⟩

theorem witness_StepRunsTheTableWord :
    decodeTableWord 16 0xFFFF = none ∧ decodeTableWord 16 0xC00C = some (.wrCmd 0) ∧
    decodeTableWord 32 0xFF03 = some (.feed 0xFF) := by decide

theorem witness_IllegalAccessGetsABusError :
    ∃ (s : State) (a : Access), s.port = .access a :: [] ∧ s.resetLine.head? ≠ some true ∧ s.busy = false ∧
      decodeBus a = .error .ro :=
  ⟨{ State.reset with port := [.access ⟨0x8800, 0⟩] }, ⟨0x8800, 0⟩, by decide⟩

/-- A held access, the first entry left and the last, a STATUS read, and an access when nothing is built. -/
theorem witness_BusyHoldsTheAccess :
    (∃ (s : State) (a : Access), s.port = .access a :: [] ∧ s.resetLine = [] ∧ s.busy = true ∧
      a.desc ≠ 0x4004 ∧ s.bidx.toNat = 255) ∧
    (∃ (s : State) (a : Access), s.port = .access a :: [] ∧ s.resetLine = [] ∧ s.busy = true ∧
      a.desc ≠ 0x4004 ∧ s.bidx.toNat = 256) ∧
    (∃ (s : State) (a : Access), s.port = .access a :: [] ∧ s.resetLine.head? ≠ some true ∧ s.busy = true ∧
      a.desc = 0x4004) ∧
    (∃ (s : State) (a : Access), s.port = .access a :: [] ∧ s.resetLine.head? ≠ some true ∧ s.busy = false) :=
  ⟨⟨{ buildState 255 with port := [.access ⟨0x6804, 0⟩] }, ⟨0x6804, 0⟩, by decide⟩,
    ⟨{ buildState 256 with port := [.access ⟨0xC00C, 0⟩] }, ⟨0xC00C, 0⟩, by decide⟩,
    ⟨{ buildState 0 with port := [.access ⟨0x4004, 0⟩] }, ⟨0x4004, 0⟩, by decide⟩,
    ⟨{ State.reset with port := [.access ⟨0x5000, 0⟩] }, ⟨0x5000, 0⟩, by decide⟩⟩

/-- Nothing offered, an idle turn and a held access; a low level at the head of the reset input; the last entry and
the completion. -/
theorem witness_BuilderWritesTheNextEntry :
    (∃ s : State, s.port = [] ∧ s.resetLine = [false, true] ∧ s.busy = true ∧ s.bidx.toNat = 0) ∧
    (∃ s : State, s.port = [.idle] ∧ s.resetLine.head? ≠ some true ∧ s.busy = true ∧ s.bidx.toNat = 255) ∧
    (∃ s : State, s.port = [.access ⟨0x4006, 0⟩] ∧ s.resetLine.head? ≠ some true ∧ s.busy = true ∧
      s.bidx.toNat = 256) :=
  ⟨⟨{ buildState 0 with resetLine := [false, true] }, by decide⟩, ⟨{ buildState 255 with port := [.idle] }, by decide⟩,
    ⟨{ buildState 256 with port := [.access ⟨0x4006, 0⟩] }, by decide⟩⟩

theorem witness_IdleTurnChangesNothing :
    State.reset.resetLine.head? ≠ some true ∧ State.reset.busy = false ∧ State.reset.port = [] := by decide

theorem witness_IdleTurnChangesNothing_idleOffer :
    ∃ s : State, s.resetLine.head? ≠ some true ∧ s.busy = false ∧ s.port.head? = some .idle :=
  ⟨{ State.reset with port := [.idle], resetLine := [false, true] }, by decide⟩

theorem witness_HardwareResetRestoresTheResetState :
    ∃ s : State, s.resetLine = true :: [] ∧ s.busy = true ∧ s.port = [.access ⟨0x6010, 0⟩] :=
  ⟨{ buildState 3 with resetLine := [true], port := [.access ⟨0x6010, 0⟩] }, by decide⟩

theorem witness_EveryBuildCompletes : (buildState 256).busy = true ∧ true ∉ (buildState 256).resetLine := by decide

theorem witness_BuildIsAtomicToTheHost :
    ∃ s s1 : State, s.refin = s.refout ∧ s.resetLine = [] ∧
      (s.port = [] ∨ ∃ a rest, s.port = .access a :: rest ∧ a.desc ≠ 0x4004) ∧ exec .build s = .next s1 :=
  ⟨{ State.reset with port := [.access ⟨0x6808, 0⟩] }, _, rfl, rfl,
    .inr ⟨⟨0x6808, 0⟩, [], rfl, by decide⟩, rfl⟩

/-- A state with a valid table and a valid register meets the invariant: the hypothesis of the step's invariant, of
the saved stream and of the reference CRC. -/
theorem witness_Inv_streamState (width : BitVec 2) (r : Bool) (p reg : Word64)
    (hp : atWidth (widthOf width) p = p) (hr : reg.toNat < 2 ^ widthOf width) :
    (streamState width r p reg).Inv where
  table_current := fun _ i _ => by
    simp only [streamState, tableOf, State.entryAt, State.entryFor, State.W, Vector.getElem_ofFn, hp]
    rfl
  table_coupled := fun _ => rfl
  build_partial := fun h => by simp [streamState, State.reset] at h
  build_coupled := fun _ => rfl
  build_invalid := fun h => by simp [streamState, State.reset] at h
  bidx_le := Nat.zero_le 256
  bidx_rest := fun _ => rfl
  reg_lt := fun _ => hr
  err_le := Nat.zero_le _

theorem witness_EveryStepKeepsTheInvariant :
    (streamState 1 false 0x1021 0xFFFF).Inv ∧
    step (streamState 1 false 0x1021 0xFFFF) = .next (streamState 1 false 0x1021 0xFFFF) :=
  ⟨witness_Inv_streamState 1 false 0x1021 0xFFFF (by decide) (by decide), rfl⟩

theorem witness_OnlyTheBuilderWritesTheTable :
    (∃ t, exec .build State.reset = .next t) ∧ (buildState 255).busy = true ∧ (buildState 255).bidx.toNat < 256 :=
  ⟨⟨_, rfl⟩, by decide⟩

theorem witness_ReadsHaveNoSideEffect : isRead (.rdTable4 0xFF .high) = true := by decide

/-- Each cause of a command error occurs. -/
theorem witness_RaisedErrorChangesOnlyErr :
    Raises (.wrCmd 6) State.reset 1 ∧ Raises .build { State.reset with refin := true } 2 ∧
    Raises (.wrCmd 2) { State.reset with refout := true } 2 ∧ Raises (.wrCmd 0xFF03) State.reset 3 ∧
    Raises (.wrData .eight 0) { State.reset with tvalid := true } 4 ∧ Raises .final State.reset 4 :=
  ⟨.inl ⟨rfl, _, rfl, rfl⟩, .inr (.inl ⟨rfl, by decide, .inl (.inl rfl)⟩),
    .inr (.inl ⟨rfl, by decide, .inr (.inr ⟨_, rfl, rfl⟩)⟩),
    .inr (.inr (.inl ⟨rfl, rfl, .inl ⟨0xFF, .inr ⟨_, rfl, rfl⟩⟩⟩)),
    .inr (.inr (.inr ⟨rfl, rfl, .inl ⟨rfl, .inr ⟨_, _, rfl⟩⟩⟩)), .inr (.inr (.inr ⟨rfl, rfl, .inr (.inl rfl)⟩))⟩

/-- A step that clears a recorded error, and one that records the first. -/
theorem witness_ErrKeepsTheFirstError :
    (∃ s t : State, step s = .next t ∧ s.err = 4 ∧ t.err = 0 ∧ s.resetLine.head? = none) ∧
    (∃ s t : State, step s = .next t ∧ s.err = 0 ∧ t.err = 1) ∧
    (∃ s : State, s.resetLine.head? = some true ∧ s.err = 2) :=
  ⟨⟨{ State.reset with err := 4, port := [.access ⟨0xC004, 0x10⟩] }, _, rfl, rfl, by decide, rfl⟩,
    ⟨{ State.reset with port := [.access ⟨0xC00C, 6⟩] }, _, rfl, rfl, by decide⟩,
    ⟨{ State.reset with err := 2, resetLine := [true] }, rfl, rfl⟩⟩

theorem witness_CommandErrorsByCause :
    (∃ t, exec (.wrCmd 6) State.reset = .next t ∧ t.err = 1) ∧
    (∃ s t : State, exec (.wrCmd 1) s = .next t ∧ s.err = 0 ∧ t.err = 2) ∧
    (∃ t, exec (.feed 0) State.reset = .next t ∧ t.err = 3) ∧
    (∃ s t : State, exec (.wrData .one 0) s = .next t ∧ s.err = 0 ∧ t.err = 4) :=
  ⟨⟨_, rfl, by decide⟩, ⟨{ State.reset with refin := true }, _, rfl, rfl, by decide⟩, ⟨_, rfl, by decide⟩,
    ⟨{ State.reset with tvalid := true }, _, rfl, rfl, by decide⟩⟩

/-- Each way a bit is set and cleared occurs. -/
theorem witness_StatusBitsHaveTheirSources :
    (∃ t, exec (.wrPoly4 .high 0) (streamState 0 false 7 0) = .next t ∧ t.tvalid = false) ∧
    (∃ t, exec .build (streamState 0 true 7 0) = .next t ∧ t.tvalid = false ∧ t.busy = true) ∧
    (∃ t, exec (.wrCmd 5) (streamState 0 false 7 0) = .next t ∧ t.tvalid = false ∧ t.rvalid = false) ∧
    (∃ t, exec (.wrCfg 0) (streamState 0 false 7 0) = .next t ∧ t.tvalid = false ∧ t.rvalid = false) ∧
    (∃ t, exec (.wrCmd 2) State.reset = .next t ∧ State.reset.rvalid = false ∧ t.rvalid = true) ∧
    (∃ t, exec (.wrCrc4 .low 0) State.reset = .next t ∧ State.reset.rvalid = false ∧ t.rvalid = true) ∧
    (∃ s t : State, exec (.wrStatus 8) s = .next t ∧ s.done = true ∧ t.done = false) ∧
    (∃ s t : State, exec .srst s = .next t ∧ s.done = true ∧ t.done = false) :=
  ⟨⟨_, rfl, rfl⟩, ⟨_, rfl, rfl, rfl⟩, ⟨_, rfl, rfl, rfl⟩, ⟨_, rfl, rfl, rfl⟩, ⟨_, rfl, rfl, rfl⟩, ⟨_, rfl, rfl, rfl⟩,
    ⟨{ State.reset with done := true }, _, rfl, rfl, rfl⟩, ⟨{ State.reset with done := true }, _, rfl, rfl, rfl⟩⟩

theorem witness_OnlyFinalAndSoftResetWriteResult :
    (∃ s t : State, step s = .next t ∧ s.Accesses (.wrCmd 4) ∧ t.result ≠ s.result) ∧
    (∃ s t : State, step s = .next t ∧ s.Accesses (.wrCmd 5) ∧ t.result ≠ s.result) :=
  ⟨⟨{ State.reset with rvalid := true, reg := 1, port := [.access ⟨0xC00C, 4⟩] }, _, rfl,
      ⟨by decide, _, rfl, rfl⟩, by decide⟩,
    ⟨{ State.reset with result := 1, port := [.access ⟨0xC00C, 5⟩] }, _, rfl, ⟨by decide, _, rfl, rfl⟩, by decide⟩⟩

theorem witness_HalfWritesAreMergedWrites :
    ((Instr.wrRevin4 .high 0xFFFFFFFF, Instr.wrRevin8, State.reset.revin) : Instr × (Word64 → Instr) × Word64) ∈
      [(Instr.wrCrc4 .high 0xFFFFFFFF, Instr.wrCrc8, State.reset.reg),
        (.wrRevin4 .high 0xFFFFFFFF, .wrRevin8, State.reset.revin)] :=
  List.mem_cons_of_mem _ List.mem_cons_self

theorem witness_FourByteReads :
    ((Instr.rdTable4 0xFF .high, State.reset.table[(0xFF#8).toNat]'(by decide)) : Instr × Word64) ∈
      [(Instr.rdPoly4 .high, State.reset.poly), (.rdTable4 0xFF .high, State.reset.table[(0xFF#8).toNat]'(by decide))] :=
  List.mem_cons_of_mem _ List.mem_cons_self

theorem witness_BitReversalIsAnInvolution :
    ∃ (t u : State) (v : Word64), exec .rdRevout8 State.reset = .next { State.reset with resp := some (.word64 v) } ∧
      exec (.wrRevin8 v) State.reset = .next t ∧ exec .rdRevout8 t = .next u :=
  ⟨_, _, _, rfl, rfl, rfl⟩

theorem witness_BuildStartsTheBuilder :
    State.reset.refin = State.reset.refout ∧ ∃ s : State, s.refin ≠ s.refout :=
  ⟨rfl, { State.reset with refout := true }, by decide⟩

theorem witness_StartLoadsTheRegister :
    (∃ s : State, s.refin = s.refout ∧ s.refin = false) ∧ (∃ s : State, s.refin = s.refout ∧ s.refin = true) ∧
    (∃ s : State, s.refin ≠ s.refout) :=
  ⟨⟨State.reset, rfl, rfl⟩, ⟨streamState 3 true 1 0, rfl, rfl⟩, { State.reset with refin := true }, by decide⟩

theorem witness_FeedUpdatesTheRegister :
    (streamState 0 false 0x07 0).tvalid = true ∧ (streamState 0 false 0x07 0).rvalid = true ∧
    (streamState 3 true 1 0).tvalid = true ∧ (streamState 3 true 1 0).rvalid = true := ⟨rfl, rfl, rfl, rfl⟩

theorem witness_FeedAndDataNeedTableAndRegister :
    IsFeed (.wrData .two 0) ∧ IsFeed (.wrCmd 0x0003) ∧ State.reset.tvalid = false ∧
    (∃ s : State, s.tvalid = true ∧ s.rvalid = false) ∧ ∃ s : State, s.tvalid = true ∧ s.rvalid = true :=
  ⟨.inr ⟨_, _, rfl⟩, .inl ⟨0, .inr ⟨_, rfl, rfl⟩⟩, rfl, ⟨{ State.reset with tvalid := true }, rfl, rfl⟩,
    ⟨streamState 1 true 0x8005 0, rfl, rfl⟩⟩

theorem witness_FinalWritesTheResult :
    (streamState 0 false 7 0xFF).rvalid = true ∧ State.reset.rvalid = false := ⟨rfl, rfl⟩

theorem witness_SavedStreamContinues :
    ∃ s t1 t u : State, s.Inv ∧ s.tvalid = true ∧ s.rvalid = true ∧
      execAll (feeds [0x31]) s = .next t1 ∧ execAll (feeds ([0x31] ++ [0x32])) s = .next t ∧
      u.width = s.width ∧ u.refout = s.refout ∧ u.table = s.table ∧ u.tvalid = true ∧ u.rvalid = false := by
  obtain ⟨s, hs, rfl⟩ : ∃ s, s.Inv ∧ s = streamState 1 true 0x8005 0xFFFF :=
    ⟨_, witness_Inv_streamState 1 true 0x8005 0xFFFF (by decide) (by decide), rfl⟩
  let s1 := (State.foldByte (streamState 1 true 0x8005 0xFFFF) 0x31).respond .written
  let s2 := (s1.foldByte 0x32).respond .written
  have h1 := feed_goes_on 0x31 (streamState 1 true 0x8005 0xFFFF) rfl rfl
  have h2 : exec (.feed 0x32) s1 = .next s2 := feed_goes_on 0x32 s1 rfl rfl
  refine ⟨_, s1, s2, { streamState 1 true 0x8005 0xFFFF with rvalid := false }, hs, rfl, rfl, ?_, ?_,
    rfl, rfl, rfl, rfl, rfl⟩
  · simp only [feeds, List.map_cons, List.map_nil, execAll, h1, s1]
  · simp only [feeds, List.map_cons, List.map_nil, List.cons_append, List.nil_append, execAll, h1]
    rw [show (State.foldByte (streamState 1 true 0x8005 0xFFFF) 0x31).respond .written = s1 from rfl, h2]

/-- A state that differs from the reset state above its width only. -/
def strayPoly : State := { State.reset with poly := 0x100 }

theorem witness_WidthIsolation :
    ∃ s u : State, s ≠ u ∧ s.width = u.width ∧ s.refin = u.refin ∧ s.refout = u.refout ∧ s.tvalid = u.tvalid ∧
      s.rvalid = u.rvalid ∧ s.err = u.err ∧
      (∀ x ∈ [(s.poly, u.poly), (s.init, u.init), (s.xorout, u.xorout), (s.reg, u.reg), (s.revin, u.revin)],
        x.1.toNat % 2 ^ s.W = x.2.toNat % 2 ^ s.W) ∧
      ∀ i, (s.entryAt i).toNat % 2 ^ s.W = (u.entryAt i).toNat % 2 ^ s.W :=
  ⟨State.reset, strayPoly, fun h => absurd (congrArg State.poly h) (by decide), rfl, rfl, rfl, rfl, rfl, rfl,
    by simp [State.reset, strayPoly, State.W, widthOf],
    fun i => congrArg (fun e : Word64 => e.toNat % 2 ^ State.reset.W)
      (show State.reset.entryAt i = strayPoly.entryAt i by simp only [State.entryAt, strayPoly])⟩

theorem witness_StreamComputesTheReferenceCrc :
    (streamState 2 false 0x04C11DB7 0).Inv ∧ (streamState 2 false 0x04C11DB7 0).tvalid = true :=
  ⟨witness_Inv_streamState 2 false 0x04C11DB7 0 (by decide) (by decide), rfl⟩

theorem witness_HostSequenceReadsTheReferenceCrc :
    ∃ s : State, s.busy = false ∧ s.resetLine = [] ∧
      s.port = (crcScript 1 true 0x8005 0xFFFF 0 [0x31]).map .access :=
  ⟨{ State.reset with port := (crcScript 1 true 0x8005 0xFFFF 0 [0x31]).map .access }, rfl, rfl, rfl⟩

theorem witness_WindowHoldsItsAddresses :
    Config.base ≤ Config.base + 4095 ∧ Config.base + 4095 < Config.base + 4096 ∧
    Config.base + 4096 ≤ Config.base + 4096 := by omega

end Sys2Proof.Tests
end

section
/-! The scope statements (00_scope.md): a turn in which no agent acts (R9), and width isolation (R4). -/

namespace Sys2Proof.Machine

/-! ### A turn without an access (R9) -/

/-- The builder acts only during a build. -/
theorem State.builderTurn_of_not_busy {s : State} (h : s.busy = false) : s.builderTurn = s := by
  rw [State.builderTurn, h]; rfl

/-- A turn in which the host offers no access is the builder's, and consumes an idle offer if there is one. -/
theorem portTurn_of_no_access {s : State} (h : s.port = [] ∨ s.port.head? = some .idle) :
    portTurn s = .next (State.builderTurn { s with port := s.port.tail }) := by
  unfold portTurn
  split <;> rename_i hp
  case h_1 => rw [hp, List.tail_nil, ← hp]
  case h_2 => rw [hp, List.tail_cons]
  case h_3 => simp [hp] at h

/-! ### Values that agree at a width (R7) -/

theorem atWidth_eq_iff {W : Nat} (h : W ≤ 64) (a b : Word64) :
    atWidth W a = atWidth W b ↔ a.toNat % 2 ^ W = b.toNat % 2 ^ W := by
  rw [← BitVec.toNat_inj, atWidth_toNat h, atWidth_toNat h]

/-! ### States that agree at a width (R4) -/

/-- Two states of width `W` that a computation of that width cannot tell apart: the same configuration and validity
flags, and the same operands and table once masked to `W` bits. -/
structure State.AgreesAt (W : Nat) (s u : State) : Prop where
  left_W : s.W = W
  right_W : u.W = W
  refin : s.refin = u.refin
  refout : s.refout = u.refout
  tvalid : s.tvalid = u.tvalid
  rvalid : s.rvalid = u.rvalid
  poly : atWidth W s.poly = atWidth W u.poly
  init : atWidth W s.init = atWidth W u.init
  xorout : atWidth W s.xorout = atWidth W u.xorout
  reg : atWidth W s.reg = atWidth W u.reg
  revin : atWidth W s.revin = atWidth W u.revin
  entryAt : ∀ i, atWidth W (s.entryAt i) = atWidth W (u.entryAt i)

namespace State.AgreesAt

section
variable {W : Nat} {s u : State} (h : s.AgreesAt W u)
include h

theorem W_le : W ≤ 64 := h.left_W ▸ s.W_le

theorem reg_toNat_mod : s.reg.toNat % 2 ^ W = u.reg.toNat % 2 ^ W := (atWidth_eq_iff h.W_le _ _).mp h.reg

/-! What is computed from agreeing states is equal. -/

theorem entryFor_eq (i : Byte) : s.entryFor i = u.entryFor i := by
  rw [State.entryFor, State.entryFor, h.left_W, h.right_W, h.poly, h.refin]

theorem cfgOk_eq : s.cfgOk = u.cfgOk := by rw [State.cfgOk, State.cfgOk, h.refin, h.refout]

theorem feedCheck_eq : s.feedCheck = u.feedCheck := by rw [State.feedCheck, State.feedCheck, h.tvalid, h.rvalid]

theorem initReg_eq : s.initReg = u.initReg := by
  rw [State.initReg, State.initReg, h.left_W, h.right_W, h.init, h.refin]

theorem finalize_eq : s.finalize = u.finalize := by
  rw [State.finalize, State.finalize, h.left_W, h.right_W, h.reg, h.xorout]

theorem revout_eq : s.revout = u.revout := by
  rw [State.revout, State.revout, h.left_W, h.right_W, h.revin]

/-- A byte update reads the table only through entries masked to the width (42_streaming.md R103). -/
theorem update_eq (b : Byte) (r : Word64) : s.update b r = u.update b r := by
  unfold State.update
  rw [h.left_W, h.right_W, h.refout]
  split
  case isTrue h8 => subst h8; exact h.entryAt _
  case isFalse => rw [h.entryAt, h.entryAt]

/-! Operations keep agreement. -/

theorem respond (r r' : Response) : (s.respond r).AgreesAt W (u.respond r') := { h with }

theorem recordError (e e' : CmdError) : (s.recordError e).AgreesAt W (u.recordError e') := { h with }

theorem load (x : Word64) :
    State.AgreesAt W { s with reg := x, rvalid := true } { u with reg := x, rvalid := true } :=
  { h with rvalid := rfl, reg := rfl }

theorem foldByte (b : Byte) : (s.foldByte b).AgreesAt W (u.foldByte b) :=
  { h with
    reg := by
      rw [State.foldByte_reg, State.foldByte_reg, h.left_W, h.right_W, h.reg, h.update_eq] }

end

theorem foldl_foldByte {W : Nat} {s u : State} (h : s.AgreesAt W u) (bs : List Byte) :
    (bs.foldl State.foldByte s).AgreesAt W (bs.foldl State.foldByte u) := by
  induction bs generalizing s u with
  | nil => exact h
  | cons b bs ih => exact ih (h.foldByte b)

section
variable {W : Nat} {s u t w : State} (h : s.AgreesAt W u)
include h

/-- START keeps agreement, refused or not (42_streaming.md R101). -/
theorem execStart (hs : execStart s = .next t) (hu : execStart u = .next w) : t.AgreesAt W w := by
  rw [Machine.execStart] at hs hu
  rw [← h.cfgOk_eq] at hu
  cases hc : s.cfgOk <;> rw [hc] at hs hu <;> cases hs <;> cases hu
  case false => exact (h.recordError _ _).respond _ _
  case true => rw [h.initReg_eq]; exact (h.load _).respond _ _

/-- A DATA write keeps agreement, refused or not (42_streaming.md R106). -/
theorem execWrData {size : Size} {v : Word64} (hs : execWrData size v s = .next t)
    (hu : execWrData size v u = .next w) : t.AgreesAt W w := by
  rw [Machine.execWrData] at hs hu
  rw [← h.feedCheck_eq] at hu
  cases hc : s.feedCheck <;> rw [hc] at hs hu <;> cases hs <;> cases hu
  case none => exact (h.foldl_foldByte _).respond _ _
  case some => exact (h.recordError _ _).respond _ _

end

end State.AgreesAt

/-- FINAL with a valid register writes the finalised register to RESULT (42_streaming.md R109). -/
theorem execFinal_result {s t : State} (hr : s.rvalid = true) (h : execFinal s = .next t) :
    t.result = s.finalize := by
  rw [execFinal, if_pos hr] at h
  cases h; rfl

/-! ### The statements -/

/-- Settles O13: no access is offered and no build runs, so the turn is the builder's and the builder rests. -/
theorem idleTurnChangesNothing : Obligations.IdleTurnChangesNothing := by
  intro s hreset hbusy hport
  calc step s = portTurn { s with resetLine := s.resetLine.tail } := step_of_reset_low hreset
    _ = .next (State.builderTurn { s with port := s.port.tail, resetLine := s.resetLine.tail }) :=
      portTurn_of_no_access hport
    _ = .next { s with port := s.port.tail, resetLine := s.resetLine.tail } :=
      congrArg _ (State.builderTurn_of_not_busy hbusy)

/-- Settles O51: the two states agree at the width, every computed value is equal in agreeing states, and START and
DATA keep agreement. -/
theorem widthIsolation : Obligations.WidthIsolation := by
  intro s u hwidth hrefin hrefout htvalid hrvalid _ hregs htable
  simp only [List.forall_mem_cons, ← atWidth_eq_iff s.W_le] at hregs htable
  obtain ⟨hpoly, hinit, hxorout, hreg, hrevin, -⟩ := hregs
  have agree : s.AgreesAt s.W u :=
    ⟨rfl, congrArg widthOf hwidth.symm, hrefin, hrefout, htvalid, hrvalid,
      hpoly, hinit, hxorout, hreg, hrevin, htable⟩
  refine ⟨agree.entryFor_eq, ?start, ?data, ?final, ?revout⟩
  case start => exact fun t w ht hw => (agree.execStart ht hw).reg_toNat_mod
  case data => exact fun size v t w ht hw => (agree.execWrData ht hw).reg_toNat_mod
  case final =>
    intro t w hr ht hw
    rw [execFinal_result hr ht, execFinal_result (hrvalid ▸ hr) hw, agree.finalize_eq]
  case revout =>
    intro t w ht hw
    cases ht; cases hw
    exact congrArg (fun v => some (Response.word64 v)) agree.revout_eq

end Sys2Proof.Machine
end

section
/-! The invariant (10_state.md R20 to R22, 41_table_builder.md R94, 60_exceptions.md R151): reset meets it, and every
operation and every step keeps it. -/

namespace Sys2Proof.Machine

/-! ### Reset -/

/-- With no table valid, no register valid, no build and no error, nothing is claimed but that BIDX rests. -/
theorem State.Inv.of_clear {s : State} (hb : s.busy = false) (ht : s.tvalid = false) (hr : s.rvalid = false)
    (hbidx : s.bidx = 0) (herr : s.err = 0) : s.Inv where
  table_current := by simp [ht]
  table_coupled := by simp [ht]
  build_partial := by simp [hb]
  build_coupled := by simp [hb]
  build_invalid := by simp [hb]
  bidx_le := by simp [hbidx]
  bidx_rest := fun _ => hbidx
  reg_lt := by simp [hr]
  err_le := by simp [herr]

/-- Settles O18: every flag, BIDX and ERR are clear after reset. -/
theorem resetMeetsTheInvariant : Obligations.ResetMeetsTheInvariant := .of_clear rfl rfl rfl rfl rfl

namespace State.Inv

/-! ### The operations keep the invariant -/

section
variable {s : State} (h : s.Inv)
include h

/-- The invariant does not speak of the inputs (10_state.md R20 to R22). -/
theorem withInputs (port : List Offer) (rest : List Bool) :
    State.Inv { s with port := port, resetLine := rest } := { h with }

theorem respond (r : Response) : (s.respond r).Inv := { h with }

/-- A recorded code is one of 1 to 4 (60_exceptions.md R151). -/
theorem recordError (e : CmdError) : (s.recordError e).Inv :=
  { h with
    err_le := by
      rw [State.recordError_err]
      split
      · exact e.code_range.2
      · exact h.err_le }

/-- An acknowledged error leaves code 0 (60_exceptions.md R160). -/
theorem acknowledge (d e : Bool) : (s.acknowledge d e).Inv :=
  { h with
    err_le := by
      rw [State.acknowledge_err]
      split
      · exact Nat.zero_le 4
      · exact h.err_le }

/-- A byte update leaves REG below `2^W` (42_streaming.md R103). -/
theorem foldByte (b : Byte) : (s.foldByte b).Inv := { h with reg_lt := fun _ => s.foldByte_lt b }

/-- A builder step below 256 writes the entry of BIDX, so one more entry is built; at 256 all of them are, and the
table becomes valid (41_table_builder.md R94). -/
theorem builderStep (hb : s.busy = true) : s.builderStep.Inv := by
  rcases s.builderStep_cases with ⟨hlt, heq⟩ | ⟨hge, heq⟩ <;> rw [heq]
  · have hnext : (s.bidx + 1).toNat = s.bidx.toNat + 1 := by bv_omega
    have hk : (s.bidx.setWidth 8).toNat = s.bidx.toNat := by
      rw [BitVec.toNat_setWidth]; exact Nat.mod_eq_of_lt hlt
    have built : State.TableBuilt (s.setEntry s.bidx.toNat (s.entryFor (s.bidx.setWidth 8))) (s.bidx.toNat + 1) := by
      intro i hi
      rw [← hk, State.entryAt_setEntry]
      split
      · subst i; rfl
      · refine h.build_partial hb i ?_
        bv_omega
    exact { h with
      table_current := fun ht => absurd ht (by simp [h.build_invalid hb])
      build_partial := fun _ i hi => built i (Nat.lt_of_lt_of_eq hi hnext)
      bidx_le := by simp only [hnext]; omega
      bidx_rest := fun hidle => absurd hb (by simpa using hidle) }
  · have hall : s.bidx.toNat = 256 := Nat.le_antisymm h.bidx_le hge
    exact { h with
      table_current := fun _ => hall ▸ h.build_partial hb
      table_coupled := fun _ => h.build_coupled hb
      build_partial := nofun
      build_coupled := nofun
      build_invalid := nofun
      bidx_le := Nat.zero_le 256
      bidx_rest := fun _ => rfl }

theorem builderTurn : s.builderTurn.Inv := by
  rw [State.builderTurn]
  split
  · exact h.builderStep ‹_›
  · exact h

end

theorem foldl_foldByte {s : State} (h : s.Inv) (bs : List Byte) : (bs.foldl State.foldByte s).Inv := by
  induction bs generalizing s with
  | nil => exact h
  | cons b bs ih => exact ih (h.foldByte b)

/-! ### An instruction and a step keep the invariant -/

/-- Outside a build every instruction keeps the invariant. A build would be disturbed by a write to CFG or POLY and by
SRST, which the BUSY hold keeps away (70_reset_and_hazards.md R180). -/
theorem of_effect {s t : State} (h : s.Inv) (hb : s.busy = false) (he : Effect s t) : t.Inv := by
  have idle : ∀ {P : Prop}, s.busy = true → P := fun hbusy => absurd hbusy (by simp [hb])
  cases he with
  | answer r => exact h.respond r
  | error e => exact (h.recordError e).respond _
  | status d e => exact (h.acknowledge d e).respond _
  | irqen d e => exact { h with }
  | init x => exact { h with }
  | xorout x => exact { h with }
  | revin x => exact { h with }
  | final hr => exact { h with }
  | fold bs ht hr => exact (h.foldl_foldByte bs).respond _
  | crc x => exact { h with reg_lt := fun _ => atWidth_lt s.W_le x }
  | start hc => exact { h with reg_lt := fun _ => s.initReg_lt }
  | cfg v =>
    exact { h with
      table_current := nofun
      table_coupled := nofun
      build_partial := idle
      build_coupled := idle
      build_invalid := idle
      reg_lt := nofun }
  | poly x =>
    exact { h with
      table_current := nofun
      table_coupled := nofun
      build_partial := idle
      build_invalid := idle }
  | build hc =>
    exact { h with
      table_current := nofun
      table_coupled := nofun
      build_partial := fun _ _ hlt => absurd hlt (Nat.not_lt_zero _)
      build_coupled := fun _ => hc
      build_invalid := fun _ => rfl
      bidx_le := Nat.zero_le 256
      bidx_rest := nofun }
  | srst => exact .of_clear hb rfl rfl rfl rfl

/-- A performed access keeps the invariant: during a build it is a read of STATUS (43_host_access.md R120). -/
theorem of_exec {i : Instr} {s t : State} (h : s.Inv) (hread : s.busy = true → i = .rdStatus)
    (he : exec i s = .next t) : t.Inv := by
  cases hb : s.busy with
  | false => exact h.of_effect hb (exec_effect he)
  | true =>
    obtain rfl := hread hb
    cases he
    exact h.respond _

end State.Inv

/-- Settles O19: a step is a reset, a turn of the builder, a bus error or a performed access, and each of them keeps
the invariant. -/
theorem everyStepKeepsTheInvariant : Obligations.EveryStepKeepsTheInvariant := by
  intro s t h hstep
  cases step_effect hstep with
  | reset rest _ => exact .of_clear rfl rfl rfl rfl rfl
  | noAccess port rest => exact (h.withInputs port rest).builderTurn
  | busError r port rest => exact (h.withInputs port rest).respond _
  | access i port rest t hread he => exact (h.withInputs port rest).of_exec hread he

end Sys2Proof.Machine
end

section
/-! The bits of STATUS and RESULT (10_state.md R13, R17, R20 to R25, R29): what reset leaves, what a read of STATUS
answers, and which instruction writes which of them. -/

namespace Sys2Proof.Machine

/-! ### Reset and the read of STATUS -/

/-- A soft reset outside a build leaves what reset leaves, but for the table and the fields of the model's own
(43_host_access.md R141). -/
theorem State.softReset_of_not_busy {s : State} (h : s.busy = false) :
    s.softReset = { State.reset with
      table := s.table, resp := s.resp, port := s.port, resetLine := s.resetLine, resets := s.resets } := by
  rw [State.softReset, h]; rfl

/-- Settles O7: the values of reset are read off, and SRST outside a build gives the same. -/
theorem resetAndSoftResetValues : Obligations.ResetAndSoftResetValues := by
  refine ⟨by simp [State.reset, State.irq], fun s hb => ?_⟩
  calc exec .srst s = .next (s.softReset.respond .written) := rfl
    _ = _ := by rw [State.softReset_of_not_busy hb]; rfl

theorem toNat_append_eq_add {m n : Nat} (x : BitVec m) (y : BitVec n) :
    (x ++ y).toNat = x.toNat * 2 ^ n + y.toNat := by
  rw [BitVec.toNat_append, ← Nat.shiftLeft_add_eq_or_of_lt y.isLt, Nat.shiftLeft_eq]

/-- The layout of STATUS (43_host_access.md R123). -/
theorem State.statusWord_toNat (s : State) :
    s.statusWord.toNat = s.busy.toNat + 2 * s.tvalid.toNat + 4 * s.rvalid.toNat + 8 * s.done.toNat +
      2 ^ 8 * s.err.toNat + 2 ^ 11 * s.irq.toNat := by
  simp only [State.statusWord, toNat_append_eq_add, BitVec.toNat_ofBool, BitVec.toNat_ofNat]
  omega

theorem State.irq_iff (s : State) :
    s.irq = true ↔ (s.ieDone = true ∧ s.done = true) ∨ (s.ieErr = true ∧ s.err ≠ 0) := by
  simp [State.irq]

/-- Settles O28: the word read is the concatenation of the fields, with the level of irq as bit 11. -/
theorem readOfStatus : Obligations.ReadOfStatus := fun s =>
  ⟨s.statusWord, s.irq.toNat, rfl, by cases s.irq <;> decide, s.irq.toNat_lt, s.irq_iff, s.statusWord_toNat⟩

/-! ### What an instruction does to the bits of STATUS and to RESULT -/

/-- What an instruction can do to the bits of STATUS and to RESULT, and which instructions do it: `Effect` with the
instruction named wherever one of these fields can change. -/
inductive StatusEffect (i : Instr) (s : State) : State → Prop where
  /-- A read, NOP, a write to another register, or a byte folded into REG. -/
  | kept (ieDone ieErr : Bool) (init xorout reg revin : Word64) (resp : Option Response) :
      StatusEffect i s { s with
        ieDone := ieDone, ieErr := ieErr, init := init, xorout := xorout, reg := reg, revin := revin, resp := resp }
  /-- A command error. -/
  | error (e : CmdError) (h : Raises i s e.code) : StatusEffect i s ((s.recordError e).respond .written)
  /-- WR.CFG. -/
  | cfg (v : Word32) (hi : i = .wrCfg v) :
      StatusEffect i s (State.respond { s with
        width := v.extractLsb' 0 2, refin := v.getLsbD 2, refout := v.getLsbD 3
        tvalid := false, rvalid := false } .written)
  /-- WR.STATUS. -/
  | status (v : Word32) (hi : i = .wrStatus v) :
      StatusEffect i s ((s.acknowledge (v.getLsbD 3) (v.getLsbD 4)).respond .written)
  /-- WR.POLY. -/
  | poly (x : Word64) (hi : (∃ v, i = .wrPoly8 v) ∨ ∃ h v, i = .wrPoly4 h v) :
      StatusEffect i s ((s.writePoly x).respond .written)
  /-- WR.CRC. -/
  | crc (x : Word64) (hi : (∃ v, i = .wrCrc8 v) ∨ ∃ h v, i = .wrCrc4 h v) :
      StatusEffect i s ((s.writeCrc x).respond .written)
  /-- BUILD, not refused. -/
  | build (hi : Performs i .build) (h : s.refin = s.refout) :
      StatusEffect i s (State.respond { s with tvalid := false, busy := true, bidx := 0 } .written)
  /-- START, not refused. -/
  | start (hi : Performs i .start) (h : s.refin = s.refout) :
      StatusEffect i s (State.respond { s with reg := s.initReg, rvalid := true } .written)
  /-- FINAL, not refused. -/
  | final (hi : Performs i .final) :
      StatusEffect i s (State.respond { s with result := s.finalize } .written)
  /-- SRST. -/
  | srst (hi : Performs i .srst) : StatusEffect i s (s.softReset.respond .written)

section
variable {i : Instr} {s t : State}

theorem Performs.refl (i : Instr) : Performs i i := .inl rfl

theorem execBuild_statusEffect (hi : Performs i .build) (h : execBuild s = .next t) : StatusEffect i s t := by
  unfold execBuild at h
  split at h <;> rename_i hc <;> rw [State.cfgOk_iff] at hc <;> cases h
  · exact .build hi hc
  · exact .error .cfg (.inr (.inl ⟨rfl, hc, .inl hi⟩))

theorem execStart_statusEffect (hi : Performs i .start) (h : execStart s = .next t) : StatusEffect i s t := by
  unfold execStart at h
  split at h <;> rename_i hc <;> rw [State.cfgOk_iff] at hc <;> cases h
  · exact .start hi hc
  · exact .error .cfg (.inr (.inl ⟨rfl, hc, .inr hi⟩))

theorem execFinal_statusEffect (hi : Performs i .final) (h : execFinal s = .next t) : StatusEffect i s t := by
  unfold execFinal at h
  split at h <;> rename_i hr <;> cases h
  · exact .final hi
  · exact .error .noReg (.inr (.inr (.inr ⟨rfl, Bool.eq_false_of_not_eq_true hr, .inr hi⟩)))

/-- The error that the check of FEED and DATA reports is the one its cause raises (42_streaming.md R102,
60_exceptions.md R153). -/
theorem raises_of_feedCheck (hi : IsFeed i) {e : CmdError} (h : s.feedCheck = some e) : Raises i s e.code := by
  rcases s.feedCheck_cases with ⟨hc, ht⟩ | ⟨hc, ht, hr⟩ | ⟨hc, _⟩ <;> rw [hc] at h <;> cases h
  · exact .inr (.inr (.inl ⟨rfl, ht, hi⟩))
  · exact .inr (.inr (.inr ⟨rfl, hr, .inl ⟨ht, hi⟩⟩))

theorem execFeed_statusEffect {b : Byte} (hi : IsFeed i) (h : execFeed b s = .next t) : StatusEffect i s t := by
  unfold execFeed at h
  split at h <;> cases h
  case h_1 e hc => exact .error e (raises_of_feedCheck hi hc)
  case h_2 => exact .kept ..

theorem execWrData_statusEffect {size : Size} {v : Word64} (hi : IsFeed i) (h : execWrData size v s = .next t) :
    StatusEffect i s t := by
  unfold execWrData at h
  split at h <;> cases h
  case h_1 e hc => exact .error e (raises_of_feedCheck hi hc)
  case h_2 => rw [State.foldl_foldByte]; exact .kept ..

theorem execWrCmd_statusEffect {c : Word32} (h : execWrCmd c s = .next t) : StatusEffect (.wrCmd c) s t := by
  have performs {cmd : Instr} (hc : decodeCmd c = some cmd) : Performs (.wrCmd c) cmd := .inr ⟨c, rfl, hc⟩
  cases hc : decodeCmd c with
  | none =>
    rw [execWrCmd, hc] at h
    cases h
    exact .error .illCmd (.inl ⟨rfl, c, rfl, hc⟩)
  | some cmd =>
    have hcmd : exec cmd s = .next t := (exec_of_performs (performs hc) s).symm.trans h
    rcases decodeCmd_cases hc with rfl | rfl | rfl | ⟨b, rfl⟩ | rfl | rfl
    · cases hcmd; exact .kept ..
    · exact execBuild_statusEffect (performs hc) hcmd
    · exact execStart_statusEffect (performs hc) hcmd
    · exact execFeed_statusEffect (.inl ⟨b, performs hc⟩) hcmd
    · exact execFinal_statusEffect (performs hc) hcmd
    · cases hcmd; exact .srst (performs hc)

/-- An instruction that answers a next state does one of these to the bits of STATUS and to RESULT. -/
theorem exec_statusEffect (h : exec i s = .next t) : StatusEffect i s t := by
  cases i with
  | wrCmd c => exact execWrCmd_statusEffect h
  | build => exact execBuild_statusEffect (.refl _) h
  | start => exact execStart_statusEffect (.refl _) h
  | feed b => exact execFeed_statusEffect (.inl ⟨b, .refl _⟩) h
  | wrData size v => exact execWrData_statusEffect (.inr ⟨size, v, rfl⟩) h
  | final => exact execFinal_statusEffect (.refl _) h
  | srst => cases h; exact .srst (.refl _)
  | wrCfg v => cases h; exact .cfg v rfl
  | wrStatus v => cases h; exact .status v rfl
  | wrPoly8 v => cases h; exact .poly v (.inl ⟨v, rfl⟩)
  | wrPoly4 hf v => cases h; exact .poly _ (.inr ⟨hf, v, rfl⟩)
  | wrCrc8 v => cases h; exact .crc v (.inl ⟨v, rfl⟩)
  | wrCrc4 hf v => cases h; exact .crc _ (.inr ⟨hf, v, rfl⟩)
  | _ => cases h; exact .kept ..

end

/-! ### STATUS: the instructions that set and clear its bits (R13, R20 to R23) -/

/-- The instructions that clear TVALID. -/
def ClearsTvalid (i : Instr) (s : State) : Prop :=
  (∃ v, i = .wrCfg v) ∨ (∃ v, i = .wrPoly8 v) ∨ (∃ h v, i = .wrPoly4 h v) ∨
    (Performs i .build ∧ s.refin = s.refout) ∨ Performs i .srst

/-- The instructions that set RVALID. -/
def SetsRvalid (i : Instr) (s : State) : Prop :=
  (Performs i .start ∧ s.refin = s.refout) ∨ (∃ v, i = .wrCrc8 v) ∨ ∃ h v, i = .wrCrc4 h v

/-- The instructions that clear RVALID. -/
def ClearsRvalid (i : Instr) : Prop := (∃ v, i = .wrCfg v) ∨ Performs i .srst

/-- The instructions that clear DONE. -/
def ClearsDone (i : Instr) : Prop :=
  (∃ v : Word32, i = .wrStatus v ∧ v.toNat / 2 ^ 3 % 2 = 1) ∨ Performs i .srst

/-- The instructions that clear ERR. -/
def ClearsErr (i : Instr) : Prop :=
  (∃ v : Word32, i = .wrStatus v ∧ v.toNat / 2 ^ 4 % 2 = 1) ∨ Performs i .srst

theorem getLsbD_eq_true_iff {w : Nat} (v : BitVec w) (k : Nat) : v.getLsbD k = true ↔ v.toNat / 2 ^ k % 2 = 1 := by
  rw [BitVec.getLsbD, Nat.testBit_eq_decide_div_mod_eq, decide_eq_true_iff]

section
variable {i : Instr} {s t : State} (h : exec i s = .next t)
include h

/-! What an instruction of each of these kinds leaves. -/

theorem tvalid_of_clearsTvalid (hi : ClearsTvalid i s) : t.tvalid = false := by
  rcases hi with ⟨v, rfl⟩ | ⟨v, rfl⟩ | ⟨hf, v, rfl⟩ | ⟨hp, hc⟩ | hp
  · cases h; rfl
  · cases h; rfl
  · cases h; rfl
  · rw [exec_of_performs hp, exec, execBuild, if_pos (s.cfgOk_iff.mpr hc)] at h
    cases h; rfl
  · rw [exec_of_performs hp] at h
    cases h; rfl

theorem rvalid_of_setsRvalid (hi : SetsRvalid i s) : t.rvalid = true := by
  rcases hi with ⟨hp, hc⟩ | ⟨v, rfl⟩ | ⟨hf, v, rfl⟩
  · rw [exec_of_performs hp, exec, execStart, if_pos (s.cfgOk_iff.mpr hc)] at h
    cases h; rfl
  · cases h; rfl
  · cases h; rfl

theorem rvalid_of_clearsRvalid (hi : ClearsRvalid i) : t.rvalid = false := by
  rcases hi with ⟨v, rfl⟩ | hp
  · cases h; rfl
  · rw [exec_of_performs hp] at h
    cases h; rfl

theorem done_of_clearsDone (hi : ClearsDone i) : t.done = false := by
  rcases hi with ⟨v, rfl, hv⟩ | hp
  · cases h
    simp [(getLsbD_eq_true_iff v 3).mpr hv]
  · rw [exec_of_performs hp] at h
    cases h; rfl

theorem busy_of_build (hi : Performs i .build ∧ s.refin = s.refout) : t.busy = true := by
  obtain ⟨hp, hc⟩ := hi
  rw [exec_of_performs hp, exec, execBuild, if_pos (s.cfgOk_iff.mpr hc)] at h
  cases h; rfl

/-! An instruction that changes a field is of one of the kinds. -/

theorem clearsTvalid_of_tvalid_ne (hne : t.tvalid ≠ s.tvalid) : ClearsTvalid i s := by
  cases exec_statusEffect h with
  | cfg v hi => exact .inl ⟨v, hi⟩
  | poly x hi => exact .inr (hi.imp_right .inl)
  | build hi hc => exact .inr (.inr (.inr (.inl ⟨hi, hc⟩)))
  | srst hi => exact .inr (.inr (.inr (.inr hi)))
  | _ => exact absurd rfl hne

theorem setsRvalid_or_clearsRvalid_of_rvalid_ne (hne : t.rvalid ≠ s.rvalid) : SetsRvalid i s ∨ ClearsRvalid i := by
  cases exec_statusEffect h with
  | start hi hc => exact .inl (.inl ⟨hi, hc⟩)
  | crc x hi => exact .inl (.inr hi)
  | cfg v hi => exact .inr (.inl ⟨v, hi⟩)
  | srst hi => exact .inr (.inr hi)
  | _ => exact absurd rfl hne

theorem clearsDone_of_done_ne (hne : t.done ≠ s.done) : ClearsDone i := by
  cases exec_statusEffect h with
  | status v hi =>
    cases hv : v.getLsbD 3 with
    | false => rw [hv] at hne; exact absurd (Bool.and_true _) hne
    | true => exact .inl ⟨v, hi, (getLsbD_eq_true_iff v 3).mp hv⟩
  | srst hi => exact .inr hi
  | _ => exact absurd rfl hne

theorem build_of_busy_ne (hne : t.busy ≠ s.busy) : Performs i .build ∧ s.refin = s.refout := by
  cases exec_statusEffect h with
  | build hi hc => exact ⟨hi, hc⟩
  | _ => exact absurd rfl hne

/-- ERR changes by the first command error and by what clears it (R24). -/
theorem raises_or_clearsErr_of_err_ne (hne : t.err ≠ s.err) :
    (s.err = 0 ∧ Raises i s t.err) ∨ (t.err = 0 ∧ ClearsErr i) := by
  cases exec_statusEffect h with
  | error e hr =>
    by_cases h0 : s.err = 0
    · exact .inl ⟨h0, by simpa [h0] using hr⟩
    · exact absurd (if_neg h0) hne
  | status v hi =>
    cases hv : v.getLsbD 4 with
    | false => rw [hv] at hne; exact absurd rfl hne
    | true => exact .inr ⟨rfl, .inl ⟨v, hi, (getLsbD_eq_true_iff v 4).mp hv⟩⟩
  | srst hi => exact .inr ⟨rfl, .inr hi⟩
  | _ => exact absurd rfl hne

/-- RESULT changes by FINAL and SRST (R17). -/
theorem final_or_srst_of_result_ne (hne : t.result ≠ s.result) :
    (Performs i .final ∧ t.result = s.finalize) ∨ (Performs i .srst ∧ t.result = 0) := by
  cases exec_statusEffect h with
  | final hi => exact .inl ⟨hi, rfl⟩
  | srst hi => exact .inr ⟨hi, rfl⟩
  | _ => exact absurd rfl hne

end

/-- A bit that changes only by what sets it and by what clears it is set exactly by the one and cleared exactly by the
other. -/
theorem bit_sources {old new : Bool} {sets clears : Prop} (hne : new ≠ old → sets ∨ clears)
    (hsets : sets → new = true) (hclears : clears → new = false) :
    (old = false → (new = true ↔ sets)) ∧ (old = true → (new = false ↔ clears)) := by
  constructor
  · intro hold
    refine ⟨fun hnew => (hne (by simp [hold, hnew])).resolve_right fun hc => ?_, hsets⟩
    exact absurd (hclears hc) (by simp [hnew])
  · intro hold
    refine ⟨fun hnew => (hne (by simp [hold, hnew])).resolve_left fun hs => ?_, hclears⟩
    exact absurd (hsets hs) (by simp [hnew])

/-- Settles O25: each bit changes only by its sources, and each source leaves the value named. -/
theorem statusBitsHaveTheirSources : Obligations.StatusBitsHaveTheirSources := by
  intro i s t h
  have tvalid := bit_sources (sets := False) (fun hne => .inr (clearsTvalid_of_tvalid_ne h hne)) False.elim
    (tvalid_of_clearsTvalid h)
  have rvalid := bit_sources (setsRvalid_or_clearsRvalid_of_rvalid_ne h) (rvalid_of_setsRvalid h)
    (rvalid_of_clearsRvalid h)
  have done := bit_sources (sets := False) (fun hne => .inr (clearsDone_of_done_ne h hne)) False.elim
    (done_of_clearsDone h)
  have busy := bit_sources (clears := False) (fun hne => .inl (build_of_busy_ne h hne)) (busy_of_build h) False.elim
  simp only [iff_false, Bool.not_eq_true, Bool.not_eq_false] at tvalid done busy
  exact ⟨tvalid.1, tvalid.2, rvalid.1, rvalid.2, done.1, done.2, busy.1, busy.2⟩

/-! ### ERR and RESULT: the steps that write them (R17, R24) -/

/-- With the reset input high the turn is a hardware reset, and drops what is offered (70_reset_and_hazards.md R170). -/
theorem step_of_reset_high {s : State} (h : s.resetLine.head? = some true) :
    step s = .next (State.hwReset { s with port := s.port.tail, resetLine := s.resetLine.tail }) := by
  obtain ⟨rest, hl⟩ := List.head?_eq_some_iff.mp h
  rw [step, turn, hl]; rfl

/-- The builder writes neither ERR nor RESULT (41_table_builder.md R94). -/
theorem State.builderTurn_keeps (s : State) : s.builderTurn.err = s.err ∧ s.builderTurn.result = s.result := by
  rw [State.builderTurn]
  split
  · rcases s.builderStep_cases with ⟨_, h⟩ | ⟨_, h⟩ <;> rw [h] <;> exact ⟨rfl, rfl⟩
  · exact ⟨rfl, rfl⟩

/-- A turn with the reset input low performs the access it accepts, or leaves ERR and RESULT as they are. -/
theorem step_performs_or_keeps {s t : State} (hlow : s.resetLine.head? ≠ some true) (h : step s = .next t) :
    (∃ i, s.Accesses i ∧ exec i { s with port := s.port.tail, resetLine := s.resetLine.tail } = .next t) ∨
      (t.err = s.err ∧ t.result = s.result) := by
  rw [step_of_reset_low hlow] at h
  unfold portTurn at h
  split at h <;> rename_i hp
  case h_1 => cases h; exact .inr (State.builderTurn_keeps _)
  case h_2 => cases h; exact .inr (State.builderTurn_keeps _)
  case h_3 a rest =>
    have hport : s.port = .access a :: rest := hp
    split at h
    · cases h; exact .inr (State.builderTurn_keeps _)
    · rw [performAccess] at h
      split at h
      case h_1 i hi => exact .inl ⟨i, ⟨hlow, a, by rw [hport]; rfl, hi⟩, by rw [hport]; exact h⟩
      case h_2 => cases h; exact .inr ⟨rfl, rfl⟩

/-- Settles O23: a step that changes ERR is a reset or performs an access, and the access raises the first error or
clears ERR. -/
theorem errKeepsTheFirstError : Obligations.ErrKeepsTheFirstError := by
  refine ⟨fun s t hstep hne => ?_, fun i s hi => ?_, fun s hhigh => ⟨_, step_of_reset_high hhigh, rfl⟩⟩
  · by_cases hhigh : s.resetLine.head? = some true
    · rw [step_of_reset_high hhigh] at hstep
      cases hstep
      exact .inl ⟨hhigh, rfl⟩
    · rcases step_performs_or_keeps hhigh hstep with ⟨i, hi, he⟩ | ⟨herr, _⟩
      · have cause := raises_or_clearsErr_of_err_ne he hne
        exact .inr ⟨i, hi, cause⟩
      · exact absurd herr hne
  · rcases hi with ⟨v, rfl, hv⟩ | hp
    · exact ⟨_, rfl, if_pos ((getLsbD_eq_true_iff v 4).mpr hv)⟩
    · exact ⟨_, exec_of_performs hp s, rfl⟩

/-- The finalised value is the exclusive or of the two registers, at the width (42_streaming.md R108). -/
theorem State.finalize_toNat (s : State) : s.finalize.toNat = (s.reg.toNat ^^^ s.xorout.toNat) % 2 ^ s.W := by
  rw [State.finalize, ← atWidth_xor, atWidth_toNat s.W_le, BitVec.toNat_xor]

/-- Settles O26: a step that changes RESULT is a reset or performs an access, and the access is FINAL or SRST. -/
theorem onlyFinalAndSoftResetWriteResult : Obligations.OnlyFinalAndSoftResetWriteResult := by
  refine ⟨rfl, fun s t hstep hne => ?_⟩
  by_cases hhigh : s.resetLine.head? = some true
  · rw [step_of_reset_high hhigh] at hstep
    cases hstep
    exact .inl ⟨hhigh, rfl⟩
  · rcases step_performs_or_keeps hhigh hstep with ⟨i, hi, he⟩ | ⟨_, hresult⟩
    · refine .inr ⟨i, hi, (final_or_srst_of_result_ne he hne).imp_left ?_⟩
      rintro ⟨hp, hv⟩
      exact ⟨hp, hv ▸ State.finalize_toNat _⟩
    · exact absurd hresult hne

end Sys2Proof.Machine
end

section
/-! The window of the host (20_memory.md): the build as one event (R51), reads without side effect (R48), the halves of
a 64-bit register (R43), and the addresses that reach CRCE (R40). -/

namespace Sys2Proof.Machine

/-! ### A turn of the builder while the host waits (R51) -/

/-- What the host offers does not leave the port during a build: it offers nothing, or an access other than the read of
STATUS (70_reset_and_hazards.md R180). -/
def State.PortWaits (s : State) : Prop :=
  s.port = [] ∨ ∃ a rest, s.port = .access a :: rest ∧ a.desc ≠ 0x4004

theorem State.holds_of_busy {s : State} (hb : s.busy = true) {a : Access} (ha : a.desc ≠ 0x4004) :
    s.holds a = true := by
  have hread : a.isStatusRead = false := Bool.eq_false_of_not_eq_true (mt a.isStatusRead_iff.mp ha)
  rw [State.holds, hb, hread]; rfl

theorem portTurn_of_portWaits {s : State} (hb : s.busy = true) (hw : s.PortWaits) :
    portTurn s = .next s.builderStep := by
  have hturn : s.builderTurn = s.builderStep := if_pos hb
  rcases hw with hp | ⟨a, rest, hp, ha⟩
  · simp only [portTurn, hp, hturn]
  · simp only [portTurn, hp, State.holds_of_busy hb ha, if_true, hturn]

/-- A turn takes one level of the reset input. -/
def State.takeLevel (s : State) : State := { s with resetLine := s.resetLine.tail }

/-- With reset low and the host waiting, a step of a build is one builder step (41_table_builder.md R94). -/
theorem step_of_portWaits {s : State} (hb : s.busy = true) (hw : s.PortWaits)
    (hreset : s.resetLine.head? ≠ some true) :
    step s = .next s.takeLevel.builderStep :=
  (step_of_reset_low hreset).trans (portTurn_of_portWaits hb hw)

/-! ### The builder's step (41_table_builder.md R94) -/

theorem State.builderStep_of_lt {s : State} (h : s.bidx.toNat < 256) :
    s.builderStep = { s.setEntry s.bidx.toNat (s.entryFor (s.bidx.setWidth 8)) with bidx := s.bidx + 1 } :=
  if_pos h

theorem State.builderStep_of_ge {s : State} (h : 256 ≤ s.bidx.toNat) :
    s.builderStep = { s with busy := false, tvalid := true, done := true, bidx := 0 } :=
  if_neg (Nat.not_lt.mpr h)

/-- A builder step below 256 adds the entry of BIDX to those built. -/
theorem State.tableBuilt_builderStep {s : State} (hlt : s.bidx.toNat < 256) (h : s.TableBuilt s.bidx.toNat) :
    s.builderStep.TableBuilt (s.bidx.toNat + 1) := by
  have hk : (s.bidx.setWidth 8).toNat = s.bidx.toNat := by
    rw [BitVec.toNat_setWidth]; exact Nat.mod_eq_of_lt hlt
  intro i hi
  have hentry : s.builderStep.entryAt i =
      if i = s.bidx.setWidth 8 then s.entryFor (s.bidx.setWidth 8) else s.entryAt i := by
    rw [← State.entryAt_setEntry, hk, State.builderStep_of_lt hlt]; rfl
  have hfor : s.builderStep.entryFor i = s.entryFor i := by rw [State.builderStep_of_lt hlt]; rfl
  rw [hentry, hfor]
  split
  · subst i; rfl
  · refine h i ?_
    bv_omega

/-! ### The whole build (R51) -/

/-- BUILD starts the builder at entry 0 (41_table_builder.md R90). -/
def State.startBuild (s : State) : State := { s with tvalid := false, busy := true, bidx := 0 }

/-- A build is over: it has left `table`, and the turns it took have left `resetLine` of the reset input's levels
(41_table_builder.md R94). -/
def State.endBuild (s : State) (table : Vector Word64 256) (resetLine : List Bool) : State :=
  { s with table := table, busy := false, tvalid := true, done := true, bidx := 0, resetLine := resetLine }

theorem execBuild_of_coupled {s : State} (h : s.refin = s.refout) : execBuild s = s.startBuild.written :=
  if_pos (s.cfgOk_iff.mpr h)

/-- A build with `n` entries left ends after `n + 1` steps while reset is low and the host waits, and the table is built
if the entries before BIDX were. -/
theorem run_build (n : Nat) {s : State} (hb : s.busy = true) (hw : s.PortWaits) (hreset : true ∉ s.resetLine)
    (hn : s.bidx.toNat + n = 256) :
    ∃ table, Host.Core.run Sys2Proof.core (n + 1) s = .next (s.endBuild table (s.resetLine.drop (n + 1))) ∧
      (s.TableBuilt s.bidx.toNat → (s.endBuild table (s.resetLine.drop (n + 1))).TableBuilt 256) := by
  induction n generalizing s with
  | zero =>
    have hlast : s.bidx.toNat = 256 := hn
    have hstep := step_of_portWaits hb hw (mt List.mem_of_head? hreset)
    rw [State.builderStep_of_ge (s := s.takeLevel) hlast.ge] at hstep
    rw [List.drop_one, hlast]
    exact ⟨s.table, run_of_step 0 hstep, id⟩
  | succ n ih =>
    have hlt : s.bidx.toNat < 256 := by omega
    have hbidx : (s.bidx + 1).toNat = s.bidx.toNat + 1 := by bv_omega
    have hstep := step_of_portWaits hb hw (mt List.mem_of_head? hreset)
    have hmore := State.tableBuilt_builderStep (s := s.takeLevel) hlt
    rw [State.builderStep_of_lt (s := s.takeLevel) hlt] at hstep hmore
    rw [run_of_step _ hstep, ← List.drop_tail]
    obtain ⟨table, hrun, hbuilt⟩ := ih (s := { s.takeLevel.setEntry _ _ with bidx := s.bidx + 1 })
      hb hw (mt List.mem_of_mem_tail hreset) (by simp only [hbidx]; omega)
    exact ⟨table, hrun, fun h => hbuilt (hbidx ▸ hmore h)⟩

/-- Settles O16: BUILD starts the builder with 256 entries left, and the run to the end of the build writes T and
nothing else that BUILD has not changed. -/
theorem buildIsAtomicToTheHost : Obligations.BuildIsAtomicToTheHost := by
  intro s s1 hcoupled hreset hport hexec
  cases (execBuild_of_coupled hcoupled).symm.trans hexec
  obtain ⟨table, hrun, hbuilt⟩ :=
    run_build 256 (s := s.startBuild.respond .written) rfl hport (hreset ▸ List.not_mem_nil) rfl
  refine ⟨_, hrun, ?frame, ?entries⟩
  case frame =>
    have hdrop : s.resetLine.drop 257 = s.resetLine := by rw [hreset]; rfl
    exact congrArg (State.endBuild (s.startBuild.respond .written) table) hdrop
  case entries => exact fun i => hbuilt nofun i i.isLt

/-! ### Reads (R43, R48) -/

/-- Settles O21: each read form returns a value and nothing else. -/
theorem readsHaveNoSideEffect : Obligations.ReadsHaveNoSideEffect := by
  intro i s hread
  cases i with
  | rdCfg | rdStatus | rdIrqen | rdPoly8 | rdPoly4 | rdInit8 | rdInit4 | rdXorout8 | rdXorout4 | rdCrc8 | rdCrc4
  | rdResult8 | rdResult4 | rdRevin8 | rdRevin4 | rdRevout8 | rdRevout4 | rdTable8 | rdTable4 => exact ⟨_, rfl⟩
  | _ => exact absurd hread Bool.false_ne_true

theorem halfOf_toNat (h : Half) (x : Word64) :
    (halfOf h x).toNat = if h = .low then x.toNat % 2 ^ 32 else x.toNat / 2 ^ 32 := by
  cases h with
  | low => exact halfOf_low_toNat x
  | high => exact halfOf_high_toNat x

/-- Settles O34: each of the seven forms returns the half of its register. -/
theorem fourByteReads : Obligations.FourByteReads := by
  intro s h i n x hmem
  refine ⟨halfOf h x, ?_, halfOf_toNat h x⟩
  simp only [List.mem_cons, Prod.mk.injEq, List.not_mem_nil, or_false] at hmem
  rcases hmem with ⟨rfl, rfl⟩ | ⟨rfl, rfl⟩ | ⟨rfl, rfl⟩ | ⟨rfl, rfl⟩ | ⟨rfl, rfl⟩ | ⟨rfl, rfl⟩ | ⟨rfl, rfl⟩ <;> rfl

/-! ### The window (R40) -/

theorem windowOffset_of_mem {a : Nat} (hlo : Config.base ≤ a) (hhi : a < Config.base + Config.windowBytes) :
    windowOffset a = some (BitVec.ofNat 12 (a - Config.base)) :=
  if_pos ⟨hlo, hhi⟩

theorem windowOffset_of_not_mem {a : Nat} (h : a < Config.base ∨ Config.base + Config.windowBytes ≤ a) :
    windowOffset a = none :=
  if_neg (by omega)

/-- Settles O54: BASE is a multiple of the window's size, and an offset in the window fits 12 bits. -/
theorem windowHoldsItsAddresses : Obligations.WindowHoldsItsAddresses := by
  refine ⟨Nat.mul_mod_right _ _, fun a hlo hhi => ?_, fun a => windowOffset_of_not_mem⟩
  have hfits : a - Config.base < 2 ^ 12 := by omega
  exact ⟨_, windowOffset_of_mem hlo hhi, (BitVec.toNat_ofNat _ _).trans (Nat.mod_eq_of_lt hfits)⟩

end Sys2Proof.Machine
end


section
/-! The encodings (30_encoding.md): the offsets of the register map (R62), what an access decodes to (R61, R63, R70), and
the decoder against the encoder and the rows of spec/opcode_table.json. -/

namespace Sys2Proof.Machine

/-! ### Offsets (R62, R63) -/

theorem halfOff_toNat {o : Offset} (ho : o.toNat % 8 = 0) (h : Half) :
    (halfOff o h).toNat = o.toNat + if h = .high then 4 else 0 := by
  cases h with
  | low => rfl
  | high => simp only [halfOff, if_true]; bv_omega

theorem offHalf_eq (off : Offset) : offHalf off = if off.toNat / 2 ^ 2 % 2 = 1 then .high else .low := by
  simp only [offHalf, getLsbD_eq_true_iff]

theorem offHalf_halfOff {o : Offset} (ho : o.toNat % 8 = 0) (h : Half) : offHalf (halfOff o h) = h := by
  have hoff := halfOff_toNat ho h
  rw [offHalf_eq]
  cases h <;> simp at hoff ⊢ <;> omega

/-- An 8-byte aligned offset is that of the 8 bytes that hold it. -/
theorem off_eq_of_aligned {off o : Offset} (ho : off.toNat / 8 * 8 = o.toNat) (hal : off.toNat % 2 ^ 3 = 0) :
    off = o := by
  bv_omega

/-- A 4-byte aligned offset is that of the half it selects of the 8 bytes that hold it. -/
theorem halfOff_offHalf {off o : Offset} (ho : off.toNat / 8 * 8 = o.toNat) (hal : off.toNat % 2 ^ 2 = 0) :
    halfOff o (offHalf off) = off := by
  apply BitVec.eq_of_toNat_eq
  rw [halfOff_toNat (by omega), offHalf_eq]
  split <;> simp <;> omega

theorem entryOff_toNat (i : Byte) : (entryOff i).toNat = 0x800 + 8 * i.toNat := by
  simp only [entryOff, toNat_append_eq_add, BitVec.toNat_ofNat]; omega

theorem offEntry_toNat (off : Offset) : (offEntry off).toNat = off.toNat / 8 % 256 := by
  simp only [offEntry, BitVec.extractLsb'_toNat, Nat.shiftRight_eq_div_pow]

theorem offEntry_halfOff (i : Byte) (h : Half) : offEntry (halfOff (entryOff i) h) = i := by
  apply BitVec.eq_of_toNat_eq
  rw [offEntry_toNat, halfOff_toNat (by rw [entryOff_toNat]; omega), entryOff_toNat]
  split <;> omega

/-- An offset in the TABLE window lies in the entry it selects. -/
theorem entryOff_offEntry_toNat {off : Offset} (hwin : 0x800 ≤ off.toNat) :
    off.toNat / 8 * 8 = (entryOff (offEntry off)).toNat := by
  rw [entryOff_toNat, offEntry_toNat]; omega

theorem and_FF8_toNat (off : Offset) : (off &&& 0xFF8#12).toNat = off.toNat / 8 * 8 := by
  have hdiv : (off &&& 0xFF8#12).toNat / 2 ^ 3 = off.toNat / 2 ^ 3 % 2 ^ 9 := by
    rw [BitVec.toNat_and, Nat.and_div_two_pow]
    exact Nat.and_two_pow_sub_one_eq_mod _ 9
  have hmod : (off &&& 0xFF8#12).toNat % 2 ^ 3 = 0 := by
    rw [BitVec.toNat_and, Nat.and_mod_two_pow]
    exact Nat.and_zero _
  omega

theorem reg32At_eq_some {off : Offset} {r : Reg32} (h : reg32At off = some r) : off = reg32Off r := by
  unfold reg32At at h
  split_ifs at h <;> cases h <;> assumption

theorem reg32At_eq_none {off : Offset} (h : reg32At off = none) : 0x10 ≤ off.toNat ∨ off.toNat % 4 ≠ 0 := by
  unfold reg32At at h
  split_ifs at h
  bv_omega

theorem reg64At_eq_some {off : Offset} {r : Reg64} (h : reg64At off = some r) :
    off.toNat / 8 * 8 = (reg64Off r).toNat := by
  rw [← and_FF8_toNat]
  simp only [reg64At] at h
  split_ifs at h <;> cases h <;> exact congrArg BitVec.toNat ‹_›

theorem reg64At_eq_none {off : Offset} (h : reg64At off = none) :
    off.toNat < 0x10 ∨ (0x38 ≤ off.toNat ∧ off.toNat < 0x40) ∨ 0x50 ≤ off.toNat := by
  have hoff := and_FF8_toNat off
  simp only [reg64At] at h
  generalize off &&& 0xFF8#12 = o at h hoff
  split_ifs at h
  bv_omega

/-! ### The two legal shapes of an access to 8 bytes (R63) -/

/-- The access has 8 bytes and is aligned. -/
def IsWhole (d : Word16) : Prop := descSize d = .eight ∧ (descOff d).toNat % 2 ^ 3 = 0

/-- The access has 4 bytes and is aligned. -/
def IsHalf (d : Word16) : Prop := descSize d = .four ∧ (descOff d).toNat % 2 ^ 2 = 0

theorem extractLsb'_eq_zero_iff (off : Offset) (k : Nat) : off.extractLsb' 0 k = 0 ↔ off.toNat % 2 ^ k = 0 := by
  rw [← BitVec.toNat_inj, BitVec.extractLsb'_toNat, Nat.shiftRight_zero]; rfl

section
variable {d : Word16}

theorem decodeTable_of_whole (hw : descWrites d = false) (h : IsWhole d) :
    decodeTable d = .ok (.rdTable8 (offEntry (descOff d))) := by
  obtain ⟨hs, hal⟩ := h
  have hlow := (extractLsb'_eq_zero_iff _ 3).mpr hal
  simp [decodeTable, hw, hs, hlow]

theorem decodeTable_of_half (hw : descWrites d = false) (h : IsHalf d) :
    decodeTable d = .ok (.rdTable4 (offEntry (descOff d)) (offHalf (descOff d))) := by
  obtain ⟨hs, hal⟩ := h
  have hlow := (extractLsb'_eq_zero_iff _ 2).mpr hal
  simp [decodeTable, hw, hs, hlow]

theorem decodeTable_of_neither (hw : descWrites d = false) (h8 : ¬ IsWhole d) (h4 : ¬ IsHalf d) :
    decodeTable d = .error .size := by
  rw [IsWhole, ← extractLsb'_eq_zero_iff] at h8
  rw [IsHalf, ← extractLsb'_eq_zero_iff] at h4
  simp only [decodeTable, hw]
  split <;> simp_all

theorem decodeReg64_of_whole (r : Reg64) (h : IsWhole d) (v : Word64) :
    decodeReg64 r d v = decodeReg64Whole r (descWrites d) v := by
  obtain ⟨hs, hal⟩ := h
  have hlow := (extractLsb'_eq_zero_iff _ 3).mpr hal
  simp [decodeReg64, hs, hlow]

theorem decodeReg64_of_half (r : Reg64) (h : IsHalf d) (v : Word64) :
    decodeReg64 r d v = decodeReg64Half r (descWrites d) (offHalf (descOff d)) (v.setWidth 32) := by
  obtain ⟨hs, hal⟩ := h
  have hlow := (extractLsb'_eq_zero_iff _ 2).mpr hal
  simp [decodeReg64, hs, hlow]

theorem decodeReg64_of_neither (r : Reg64) (h8 : ¬ IsWhole d) (h4 : ¬ IsHalf d) (v : Word64) :
    decodeReg64 r d v = .error .size := by
  rw [IsWhole, ← extractLsb'_eq_zero_iff] at h8
  rw [IsHalf, ← extractLsb'_eq_zero_iff] at h4
  unfold decodeReg64
  split <;> simp_all

end

/-! ### Where an access lands (R63) -/

/-- The region of the map an access lands in, with what it decodes to there. -/
inductive BusRegion (a : Access) : Except BusError Instr → Prop
  /-- Bit 12 of the descriptor is set. -/
  | bit12 (hb : descBit12 a.desc = true) : BusRegion a (.error .unmapped)
  /-- The TABLE window. -/
  | window (hb : descBit12 a.desc = false) (hwin : 0x800 ≤ (descOff a.desc).toNat) :
      BusRegion a (decodeTable a.desc)
  /-- A write to DATA. -/
  | dataWrite (hb : descBit12 a.desc = false) (ho : descOff a.desc = 0x038) (hw : descWrites a.desc = true) :
      BusRegion a (.ok (.wrData (descSize a.desc) (dataOfSize (descSize a.desc) a.data)))
  /-- A read of DATA. -/
  | dataRead (hb : descBit12 a.desc = false) (ho : descOff a.desc = 0x038) (hw : descWrites a.desc = false) :
      BusRegion a (.error .wo)
  /-- A 32-bit register. -/
  | reg32 (hb : descBit12 a.desc = false) (r : Reg32) (ho : descOff a.desc = reg32Off r) :
      BusRegion a (decodeReg32 r a.desc (a.data.setWidth 32))
  /-- A 64-bit register. -/
  | reg64 (hb : descBit12 a.desc = false) (r : Reg64)
      (ho : (descOff a.desc).toNat / 8 * 8 = (reg64Off r).toNat) : BusRegion a (decodeReg64 r a.desc a.data)
  /-- An offset where nothing lives. -/
  | unmapped (hb : descBit12 a.desc = false)
      (ho : let off := (descOff a.desc).toNat
        (off < 0x10 ∧ off % 4 ≠ 0) ∨ (0x39 ≤ off ∧ off < 0x40) ∨ (0x50 ≤ off ∧ off < 0x800)) :
      BusRegion a (.error .unmapped)

theorem decodeBus_region (a : Access) : BusRegion a (decodeBus a) := by
  cases hb : descBit12 a.desc with
  | true => simp only [decodeBus, hb, if_true]; exact .bit12 hb
  | false =>
    simp only [decodeBus, hb, Bool.false_eq_true, if_false]
    split_ifs with hwin hdata hw
    · exact .window hb hwin
    · exact .dataWrite hb hdata hw
    · exact .dataRead hb hdata (Bool.eq_false_of_not_eq_true hw)
    · split
      · exact .reg32 hb _ (reg32At_eq_some ‹_›)
      · exact .reg64 hb _ (reg64At_eq_some ‹_›)
      · next h32 h64 =>
        have hno32 := reg32At_eq_none h32
        have hno64 := reg64At_eq_none h64
        exact .unmapped hb (by bv_omega)

/-! ### The legal accesses decode (R63) -/

theorem decodeBus_reg32 (r : Reg32) (w : Bool) (v : Word64) :
    decodeBus ⟨descOf w .four (reg32Off r), v⟩ = decodeReg32 r (descOf w .four (reg32Off r)) (v.setWidth 32) := by
  cases r <;> simp [decodeBus, reg32Off, reg32At]

theorem decodeBus_whole (r : Reg64) (w : Bool) (v : Word64) :
    decodeBus ⟨descOf w .eight (reg64Off r), v⟩ = decodeReg64Whole r w v := by
  cases r <;> simp [decodeBus, decodeReg64, reg64Off, reg32At, reg64At]

theorem decodeBus_half (r : Reg64) (w : Bool) (h : Half) (v : Word64) :
    decodeBus ⟨descOf w .four (halfOff (reg64Off r) h), v⟩ = decodeReg64Half r w h (v.setWidth 32) := by
  cases r <;> cases h <;> simp [decodeBus, decodeReg64, reg64Off, halfOff, offHalf, reg32At, reg64At]

theorem decodeBus_dataWrite (size : Size) (v : Word64) :
    decodeBus ⟨descOf true size 0x038, v⟩ = .ok (.wrData size (dataOfSize size v)) := by
  simp [decodeBus]

theorem decodeBus_of_window {a : Access} (hb : descBit12 a.desc = false) (hwin : 0x800 ≤ (descOff a.desc).toNat) :
    decodeBus a = decodeTable a.desc := by
  simp [decodeBus, hb, hwin]

theorem decodeBus_table8 (i : Byte) (v : Word64) :
    decodeBus ⟨descOf false .eight (entryOff i), v⟩ = .ok (.rdTable8 i) := by
  have hoff := entryOff_toNat i
  rw [decodeBus_of_window (by simp) (by simp; omega),
    decodeTable_of_whole (by simp) ⟨by simp, by simp; omega⟩, descOff_descOf]
  exact congrArg (Except.ok ∘ Instr.rdTable8) (offEntry_halfOff i .low)

theorem decodeBus_table4 (i : Byte) (h : Half) (v : Word64) :
    decodeBus ⟨descOf false .four (halfOff (entryOff i) h), v⟩ = .ok (.rdTable4 i h) := by
  have hentry := entryOff_toNat i
  have hal : (entryOff i).toNat % 8 = 0 := by omega
  have hoff := halfOff_toNat hal h
  rw [decodeBus_of_window (by simp) (by simp; omega),
    decodeTable_of_half (by simp) ⟨by simp, by simp; split at hoff <;> omega⟩, descOff_descOf,
    offEntry_halfOff, offHalf_halfOff hal]

theorem decode_bus_eq_ok {a : Access} {i : Instr} : decode (.bus a) = .ok i ↔ decodeBus a = .ok i := by
  simp only [decode]
  split <;> simp_all

theorem decode_cmd_eq_ok {c : Word32} {i : Instr} : decode (.cmd c) = .ok i ↔ decodeCmd c = some i := by
  simp only [decode]
  split <;> simp_all

theorem setWidth_64_32 (v : Word32) : (v.setWidth 64).setWidth 32 = v := by
  rw [BitVec.setWidth_setWidth_of_le v (by decide), BitVec.setWidth_eq]

theorem decode_writeReg32 (r : Reg32) (v : Word32) {i : Instr}
    (hi : decodeReg32 r (descOf true .four (reg32Off r)) v = .ok i) :
    decode (writeCode .four (reg32Off r) (v.setWidth 64)) = .ok i :=
  decode_bus_eq_ok.mpr (by rw [decodeBus_reg32, setWidth_64_32, hi])

theorem decode_writeHalf (r : Reg64) (h : Half) (v : Word32) {i : Instr} (hi : decodeReg64Half r true h v = .ok i) :
    decode (writeCode .four (halfOff (reg64Off r) h) (v.setWidth 64)) = .ok i :=
  decode_bus_eq_ok.mpr (by rw [decodeBus_half, setWidth_64_32, hi])

theorem dataOfSize_toNat (size : Size) (v : Word64) :
    (dataOfSize size v).toNat = v.toNat % 2 ^ (8 * size.bytes) := by
  cases size <;> simp [dataOfSize, Size.bytes] <;> omega

theorem dataOfSize_eq_self {size : Size} {v : Word64} (h : v.toNat < 2 ^ (8 * size.bytes)) :
    dataOfSize size v = v := by
  apply BitVec.eq_of_toNat_eq
  rw [dataOfSize_toNat, Nat.mod_eq_of_lt h]

theorem wellFormed_dataOfSize (size : Size) (v : Word64) : (Instr.wrData size (dataOfSize size v)).WellFormed := by
  refine decide_eq_true ?_
  rw [dataOfSize_toNat]
  exact Nat.mod_lt _ (Nat.two_pow_pos _)

/-! ### The command word (R64, R65) -/

theorem cmdOp_toNat (c : Word32) : (cmdOp c).toNat = c.toNat % 2 ^ 8 := by
  simp only [cmdOp, BitVec.extractLsb'_toNat, Nat.shiftRight_zero]

theorem cmdArg_toNat (c : Word32) : (cmdArg c).toNat = c.toNat / 2 ^ 8 % 2 ^ 8 := by
  simp only [cmdArg, BitVec.extractLsb'_toNat, Nat.shiftRight_eq_div_pow]

theorem cmdRsv_toNat (c : Word32) : (cmdRsv c).toNat = c.toNat / 2 ^ 16 := by
  have := c.isLt
  simp only [cmdRsv, BitVec.extractLsb'_toNat, Nat.shiftRight_eq_div_pow]
  omega

theorem cmdWord_toNat (op arg : Byte) : (cmdWord op arg).toNat = arg.toNat * 2 ^ 8 + op.toNat := by
  simp only [cmdWord, toNat_append_eq_add, BitVec.toNat_ofNat]; omega

@[simp] theorem cmdOp_cmdWord (op arg : Byte) : cmdOp (cmdWord op arg) = op := by
  apply BitVec.eq_of_toNat_eq
  rw [cmdOp_toNat, cmdWord_toNat]
  omega

@[simp] theorem cmdArg_cmdWord (op arg : Byte) : cmdArg (cmdWord op arg) = arg := by
  apply BitVec.eq_of_toNat_eq
  rw [cmdArg_toNat, cmdWord_toNat]
  omega

@[simp] theorem cmdRsv_cmdWord (op arg : Byte) : cmdRsv (cmdWord op arg) = 0 := by
  have hzero : (0 : Word16).toNat = 0 := rfl
  apply BitVec.eq_of_toNat_eq
  rw [cmdRsv_toNat, cmdWord_toNat]
  omega

/-- A word with RSV = 0 is made of its OP and ARG. -/
theorem cmdWord_fields {c : Word32} (h : cmdRsv c = 0) : cmdWord (cmdOp c) (cmdArg c) = c := by
  have hrsv : c.toNat / 2 ^ 16 = 0 := by rw [← cmdRsv_toNat, h]; rfl
  apply BitVec.eq_of_toNat_eq
  rw [cmdWord_toNat, cmdOp_toNat, cmdArg_toNat]
  omega

theorem decodeCmd_feed (b : Byte) : decodeCmd (cmdWord 0x03 b) = some (.feed b) := by
  rw [decodeCmd, cmdRsv_cmdWord, cmdOp_cmdWord, cmdArg_cmdWord]
  simp

/-! ### Decoding what is encoded -/

/-- Settles O1: each form's code is a legal access of its region, or a command word. -/
theorem decodeOfEncodeIsTheInstruction : Obligations.DecodeOfEncodeIsTheInstruction := by
  intro i hwf
  cases i with
  | rdCfg | rdStatus | rdIrqen | rdPoly8 | rdInit8 | rdXorout8 | rdCrc8 | rdResult8 | rdRevin8 | rdRevout8
  | nop | build | start | final | srst => decide
  | rdPoly4 h | rdInit4 h | rdXorout4 h | rdCrc4 h | rdResult4 h | rdRevin4 h | rdRevout4 h => cases h <;> decide
  | rdTable8 i => exact decode_bus_eq_ok.mpr (decodeBus_table8 i 0)
  | rdTable4 i h => exact decode_bus_eq_ok.mpr (decodeBus_table4 i h 0)
  | wrCfg v => exact decode_writeReg32 .cfg v rfl
  | wrStatus v => exact decode_writeReg32 .status v rfl
  | wrIrqen v => exact decode_writeReg32 .irqen v rfl
  | wrCmd c => exact decode_writeReg32 .cmd c rfl
  | wrPoly8 v => exact decode_bus_eq_ok.mpr (decodeBus_whole .poly true v)
  | wrInit8 v => exact decode_bus_eq_ok.mpr (decodeBus_whole .init true v)
  | wrXorout8 v => exact decode_bus_eq_ok.mpr (decodeBus_whole .xorout true v)
  | wrCrc8 v => exact decode_bus_eq_ok.mpr (decodeBus_whole .crc true v)
  | wrRevin8 v => exact decode_bus_eq_ok.mpr (decodeBus_whole .revin true v)
  | wrPoly4 h v => exact decode_writeHalf .poly h v rfl
  | wrInit4 h v => exact decode_writeHalf .init h v rfl
  | wrXorout4 h v => exact decode_writeHalf .xorout h v rfl
  | wrCrc4 h v => exact decode_writeHalf .crc h v rfl
  | wrRevin4 h v => exact decode_writeHalf .revin h v rfl
  | wrData size v =>
    have hfits : dataOfSize size v = v := dataOfSize_eq_self (of_decide_eq_true hwf)
    exact decode_bus_eq_ok.mpr ((decodeBus_dataWrite size v).trans (by rw [hfits]))
  | feed b => exact decode_cmd_eq_ok.mpr (decodeCmd_feed b)

/-! ### Encoding what is decoded -/

/-- The code of an access: `readCode` or `writeCode`, by its direction. -/
def accessCode (w : Bool) (size : Size) (off : Offset) (v : Word64) : Code :=
  .bus ⟨descOf w size off, if w then v else 0⟩

theorem canonical_bus {a : Access} (hb : descBit12 a.desc = false) :
    (Code.bus a).canonical =
      accessCode (descWrites a.desc) (descSize a.desc) (descOff a.desc) (dataOfSize (descSize a.desc) a.data) := by
  rw [accessCode, descOf_fields hb]; rfl

/-- The instruction is well formed, and `c` is its code. -/
def EncodesTo (i : Instr) (c : Code) : Prop := i.WellFormed ∧ encode i = c

section
variable {d : Word16} {i : Instr}

theorem encodesTo_of_decodeReg32 {r : Reg32} {v : Word32} (h : decodeReg32 r d v = .ok i) :
    descSize d = .four ∧ EncodesTo i (accessCode (descWrites d) .four (reg32Off r) (v.setWidth 64)) := by
  unfold decodeReg32 at h
  split at h <;> cases h <;> rename_i hs hw <;> rw [hs, hw] <;> exact ⟨rfl, rfl, rfl⟩

theorem encodesTo_of_decodeReg64Whole {r : Reg64} {w : Bool} {v : Word64} (h : decodeReg64Whole r w v = .ok i) :
    EncodesTo i (accessCode w .eight (reg64Off r) v) := by
  cases r <;> cases w <;> cases h <;> exact ⟨rfl, rfl⟩

theorem encodesTo_of_decodeReg64Half {r : Reg64} {w : Bool} {hf : Half} {v : Word32}
    (h : decodeReg64Half r w hf v = .ok i) :
    EncodesTo i (accessCode w .four (halfOff (reg64Off r) hf) (v.setWidth 64)) := by
  cases r <;> cases w <;> cases h <;> exact ⟨rfl, rfl⟩

theorem encodesTo_of_decodeReg64 {r : Reg64} {v : Word64} (ho : (descOff d).toNat / 8 * 8 = (reg64Off r).toNat)
    (h : decodeReg64 r d v = .ok i) :
    EncodesTo i (accessCode (descWrites d) (descSize d) (descOff d) (dataOfSize (descSize d) v)) := by
  by_cases h8 : IsWhole d
  · rw [decodeReg64_of_whole r h8] at h
    obtain ⟨hs, hal⟩ := h8
    rw [hs, off_eq_of_aligned ho hal]
    exact encodesTo_of_decodeReg64Whole h
  by_cases h4 : IsHalf d
  · rw [decodeReg64_of_half r h4] at h
    obtain ⟨hs, hal⟩ := h4
    have henc := encodesTo_of_decodeReg64Half h
    rw [halfOff_offHalf ho hal] at henc
    rw [hs]
    exact henc
  · rw [decodeReg64_of_neither r h8 h4] at h
    cases h

theorem encodesTo_of_decodeTable {v : Word64} (hwin : 0x800 ≤ (descOff d).toNat) (h : decodeTable d = .ok i) :
    EncodesTo i (accessCode (descWrites d) (descSize d) (descOff d) v) := by
  have ho := entryOff_offEntry_toNat hwin
  cases hw : descWrites d with
  | true => rw [decodeTable, hw] at h; cases h
  | false =>
    by_cases h8 : IsWhole d
    · cases (decodeTable_of_whole hw h8).symm.trans h
      obtain ⟨hs, hal⟩ := h8
      refine ⟨rfl, ?_⟩
      rw [encode, ← off_eq_of_aligned ho hal, hs]; rfl
    by_cases h4 : IsHalf d
    · cases (decodeTable_of_half hw h4).symm.trans h
      obtain ⟨hs, hal⟩ := h4
      refine ⟨rfl, ?_⟩
      rw [encode, halfOff_offHalf ho hal, hs]; rfl
    · cases (decodeTable_of_neither hw h8 h4).symm.trans h

theorem encodesTo_of_decodeBus {a : Access} (h : decodeBus a = .ok i) : EncodesTo i (Code.bus a).canonical := by
  have hregion := decodeBus_region a
  generalize decodeBus a = res at h hregion
  cases hregion with
  | bit12 | dataRead | unmapped => cases h
  | window hb hwin => rw [canonical_bus hb]; exact encodesTo_of_decodeTable hwin h
  | dataWrite hb ho hw =>
    cases h
    rw [canonical_bus hb, hw, ho]
    exact ⟨wellFormed_dataOfSize _ _, rfl⟩
  | reg32 hb r ho =>
    obtain ⟨hs, henc⟩ := encodesTo_of_decodeReg32 h
    rw [canonical_bus hb, ho, hs]
    exact henc
  | reg64 hb r ho => rw [canonical_bus hb]; exact encodesTo_of_decodeReg64 ho h

theorem eq_ofNat_of_toNat_eq {w n : Nat} {x : BitVec w} (h : x.toNat = n) : x = BitVec.ofNat w n := by
  rw [← h, BitVec.ofNat_toNat, BitVec.setWidth_eq]

/-- A legal command word has RSV = 0, and ARG = 0 unless it is a FEED: it is the encoding of its command. -/
theorem encodesTo_of_decodeCmd {c : Word32} (h : decodeCmd c = some i) : EncodesTo i (.cmd c) := by
  unfold decodeCmd at h
  split at h
  · cases h
  · next hlegal =>
    push Not at hlegal
    obtain ⟨hrsv, _, harg⟩ := hlegal
    rw [← cmdWord_fields hrsv]
    split at h <;> cases h <;> rename_i hop <;> rw [eq_ofNat_of_toNat_eq hop] at harg ⊢
    case h_4 => exact ⟨rfl, rfl⟩
    all_goals
      have harg0 : cmdArg c = 0 := by_contra fun hne => absurd (harg hne) (by decide)
      rw [harg0]
      exact ⟨rfl, rfl⟩

theorem encodesTo_of_decode {c : Code} (h : decode c = .ok i) : EncodesTo i c.canonical := by
  cases c with
  | bus a => exact encodesTo_of_decodeBus (decode_bus_eq_ok.mp h)
  | cmd c => exact encodesTo_of_decodeCmd (decode_cmd_eq_ok.mp h)

end

/-- Settles O2: in each region the fields of a legal access are those the encoder writes. -/
theorem encodeOfDecodeIsTheCanonicalCode : Obligations.EncodeOfDecodeIsTheCanonicalCode :=
  fun _ _ => encodesTo_of_decode

/-! ### The rows of the opcode table -/

theorem fits_encode (i : Instr) : i.opcode.fits (encode i) = true :=
  match i with
  | .rdCfg => Laws.TableRow.rdCfg
  | .wrCfg v => Laws.TableRow.wrCfg v
  | .rdStatus => Laws.TableRow.rdStatus
  | .wrStatus v => Laws.TableRow.wrStatus v
  | .rdIrqen => Laws.TableRow.rdIrqen
  | .wrIrqen v => Laws.TableRow.wrIrqen v
  | .wrCmd v => Laws.TableRow.wrCmd v
  | .rdPoly8 => Laws.TableRow.rdPoly8
  | .rdPoly4 h => Laws.TableRow.rdPoly4 h
  | .wrPoly8 v => Laws.TableRow.wrPoly8 v
  | .wrPoly4 h v => Laws.TableRow.wrPoly4 h v
  | .rdInit8 => Laws.TableRow.rdInit8
  | .rdInit4 h => Laws.TableRow.rdInit4 h
  | .wrInit8 v => Laws.TableRow.wrInit8 v
  | .wrInit4 h v => Laws.TableRow.wrInit4 h v
  | .rdXorout8 => Laws.TableRow.rdXorout8
  | .rdXorout4 h => Laws.TableRow.rdXorout4 h
  | .wrXorout8 v => Laws.TableRow.wrXorout8 v
  | .wrXorout4 h v => Laws.TableRow.wrXorout4 h v
  | .rdCrc8 => Laws.TableRow.rdCrc8
  | .rdCrc4 h => Laws.TableRow.rdCrc4 h
  | .wrCrc8 v => Laws.TableRow.wrCrc8 v
  | .wrCrc4 h v => Laws.TableRow.wrCrc4 h v
  | .rdResult8 => Laws.TableRow.rdResult8
  | .rdResult4 h => Laws.TableRow.rdResult4 h
  | .rdRevin8 => Laws.TableRow.rdRevin8
  | .rdRevin4 h => Laws.TableRow.rdRevin4 h
  | .wrRevin8 v => Laws.TableRow.wrRevin8 v
  | .wrRevin4 h v => Laws.TableRow.wrRevin4 h v
  | .rdRevout8 => Laws.TableRow.rdRevout8
  | .rdRevout4 h => Laws.TableRow.rdRevout4 h
  | .wrData size v => Laws.TableRow.wrData size v
  | .rdTable8 i => Laws.TableRow.rdTable8 i
  | .rdTable4 i h => Laws.TableRow.rdTable4 i h
  | .nop => Laws.TableRow.nop
  | .build => Laws.TableRow.build
  | .start => Laws.TableRow.start
  | .feed b => Laws.TableRow.feed b
  | .final => Laws.TableRow.final
  | .srst => Laws.TableRow.srst

theorem fits_canonical (row : Opcode) (c : Code) : row.fits c.canonical = row.fits c := by
  cases row <;> cases c <;> rfl

/-- A word with the fixed bits `p` under a mask with a gap between bits `lo` and `hi` agrees with `p` outside the
gap. -/
theorem toNat_of_and_eq {n : Nat} {x mask p : BitVec n} (hi lo : Nat) (h : x &&& mask = p)
    (hhi : mask.toNat / 2 ^ hi = 2 ^ (n - hi) - 1) (hlo : mask.toNat % 2 ^ lo = 2 ^ lo - 1) :
    x.toNat / 2 ^ hi = p.toNat / 2 ^ hi ∧ x.toNat % 2 ^ lo = p.toNat % 2 ^ lo := by
  subst p
  rw [BitVec.toNat_and, Nat.and_div_two_pow, Nat.and_mod_two_pow, hhi, hlo, Nat.and_two_pow_sub_one_eq_mod,
    Nat.and_two_pow_sub_one_eq_mod, Nat.mod_mod]
  refine ⟨(Nat.mod_eq_of_lt ?_).symm, rfl⟩
  rw [Nat.div_lt_iff_lt_mul (Nat.two_pow_pos _), ← Nat.pow_add]
  exact x.isLt.trans_le (Nat.pow_le_pow_right (by decide) (by omega))

/-- The code decodes to an instruction of the row. -/
def DecodesInRow (c : Code) (row : Opcode) : Prop := ∃ i, decode c = .ok i ∧ i.opcode = row

section
variable {c : Code} {row : Opcode}

theorem exists_access_of_fits {mask d : Word16} (h : (Opcode.bus mask d).fits c = true) :
    ∃ desc v, c = .bus ⟨desc, v⟩ ∧ desc &&& mask = d := by
  cases c with
  | bus a => exact ⟨a.desc, a.data, rfl, beq_iff_eq.mp h⟩
  | cmd => cases h

theorem exists_command_of_fits {mask w : Word32} (h : (Opcode.cmd mask w).fits c = true) :
    ∃ x : Word32, c = .cmd x ∧ x &&& mask = w := by
  cases c with
  | bus => cases h
  | cmd x => exact ⟨x, rfl, beq_iff_eq.mp h⟩

/-- The row of a form without an operand in its descriptor. -/
theorem decodesInRow_of_desc {d : Word16} {f : Word64 → Instr} (h : (Opcode.bus 0xFFFF d).fits c = true)
    (hd : ∀ v, decodeBus ⟨d, v⟩ = .ok (f v)) (hrow : ∀ v, (f v).opcode = row) : DecodesInRow c row := by
  obtain ⟨desc, v, rfl, hdesc⟩ := exists_access_of_fits h
  obtain rfl : desc = d := BitVec.and_allOnes.symm.trans hdesc
  exact ⟨_, decode_bus_eq_ok.mpr (hd v), hrow v⟩

/-- The row of a 4-byte form, which leaves the half free. -/
theorem decodesInRow_of_halves {d : Word16} {w : Bool} {o : Offset} {f : Half → Word64 → Instr}
    (h : (Opcode.bus 0xFFFB d).fits c = true)
    (hf : ∀ hf v, decodeBus ⟨descOf w .four (halfOff o hf), v⟩ = .ok (f hf v)) (hd : d = descOf w .four o)
    (ho : o.toNat % 8 = 0) (hrow : ∀ hf v, (f hf v).opcode = row) : DecodesInRow c row := by
  obtain ⟨desc, v, rfl, hdesc⟩ := exists_access_of_fits h
  obtain ⟨hhi, hlo⟩ := toNat_of_and_eq 3 2 hdesc rfl rfl
  rw [hd, descOf_toNat] at hhi hlo
  have hfields : desc = descOf w .four (halfOff o (offHalf (descOff desc))) := by
    have hoff := descOff_toNat desc
    have hsize : (sizeBits .four).toNat = 2 := rfl
    have hw := w.toNat_lt
    apply BitVec.eq_of_toNat_eq
    rw [halfOff_offHalf (by omega) (by omega), descOf_toNat, hoff]
    omega
  rw [hfields]
  exact ⟨_, decode_bus_eq_ok.mpr (hf _ v), hrow _ v⟩

/-- The row of WR.DATA leaves the size free. -/
theorem decodesInRow_wrData {size : Size} {v : Word64} (h : (Instr.wrData size v).opcode.fits c = true) :
    DecodesInRow c (Instr.wrData size v).opcode := by
  obtain ⟨desc, data, rfl, hdesc⟩ := exists_access_of_fits h
  obtain ⟨hhi, hlo⟩ : desc.toNat / 2 ^ 15 = 1 ∧ desc.toNat % 2 ^ 13 = 0x38 :=
    toNat_of_and_eq 15 13 hdesc rfl rfl
  have hfields : desc = descOf true (descSize desc) 0x038 := by
    have hoff : (0x038 : Offset).toNat = 0x38 := rfl
    apply BitVec.eq_of_toNat_eq
    rw [descOf_toNat, descSize_toNat, hoff, Bool.toNat_true]
    omega
  rw [hfields]
  exact ⟨_, decode_bus_eq_ok.mpr (decodeBus_dataWrite _ data), rfl⟩

/-- The row of RD.TABLE8 leaves the entry free. -/
theorem decodesInRow_rdTable8 {i : Byte} (h : (Instr.rdTable8 i).opcode.fits c = true) :
    DecodesInRow c (Instr.rdTable8 i).opcode := by
  obtain ⟨desc, v, rfl, hdesc⟩ := exists_access_of_fits h
  obtain ⟨hhi, hlo⟩ : desc.toNat / 2 ^ 11 = 0x6800 / 2 ^ 11 ∧ desc.toNat % 2 ^ 3 = 0 :=
    toNat_of_and_eq 11 3 hdesc rfl rfl
  have hfields : desc = descOf false .eight (entryOff (offEntry (descOff desc))) := by
    have hoff := descOff_toNat desc
    have hsize : (sizeBits .eight).toNat = 3 := rfl
    apply BitVec.eq_of_toNat_eq
    rw [← off_eq_of_aligned (entryOff_offEntry_toNat (by omega)) (by omega), descOf_toNat, hoff, Bool.toNat_false]
    omega
  rw [hfields]
  exact ⟨_, decode_bus_eq_ok.mpr (decodeBus_table8 _ v), rfl⟩

/-- The row of RD.TABLE4 leaves the entry and the half free. -/
theorem decodesInRow_rdTable4 {i : Byte} {hf : Half} (h : (Instr.rdTable4 i hf).opcode.fits c = true) :
    DecodesInRow c (Instr.rdTable4 i hf).opcode := by
  obtain ⟨desc, v, rfl, hdesc⟩ := exists_access_of_fits h
  obtain ⟨hhi, hlo⟩ : desc.toNat / 2 ^ 11 = 0x4800 / 2 ^ 11 ∧ desc.toNat % 2 ^ 2 = 0 :=
    toNat_of_and_eq 11 2 hdesc rfl rfl
  have hfields :
      desc = descOf false .four (halfOff (entryOff (offEntry (descOff desc))) (offHalf (descOff desc))) := by
    have hoff := descOff_toNat desc
    have hsize : (sizeBits .four).toNat = 2 := rfl
    apply BitVec.eq_of_toNat_eq
    rw [halfOff_offHalf (entryOff_offEntry_toNat (by omega)) (by omega), descOf_toNat, hoff, Bool.toNat_false]
    omega
  rw [hfields]
  exact ⟨_, decode_bus_eq_ok.mpr (decodeBus_table4 _ _ v), rfl⟩

theorem decodesInRow_of_command {w : Word32} {i : Instr} (h : (Opcode.cmd 0xFFFFFFFF w).fits c = true)
    (hw : decode (.cmd w) = .ok i) : DecodesInRow c i.opcode := by
  obtain ⟨x, rfl, hx⟩ := exists_command_of_fits h
  obtain rfl : x = w := BitVec.and_allOnes.symm.trans hx
  exact ⟨i, hw, rfl⟩

/-- The row of FEED leaves the byte free. -/
theorem decodesInRow_feed {b : Byte} (h : (Instr.feed b).opcode.fits c = true) :
    DecodesInRow c (Instr.feed b).opcode := by
  obtain ⟨x, rfl, hx⟩ := exists_command_of_fits h
  obtain ⟨hhi, hlo⟩ : x.toNat / 2 ^ 16 = 0 ∧ x.toNat % 2 ^ 8 = 3 := toNat_of_and_eq 16 8 hx rfl rfl
  have hword : x = cmdWord 0x03 (cmdArg x) := by
    have hop : (0x03 : Byte).toNat = 3 := rfl
    apply BitVec.eq_of_toNat_eq
    rw [cmdWord_toNat, cmdArg_toNat, hop]
    omega
  rw [hword]
  exact ⟨_, decode_cmd_eq_ok.mpr (decodeCmd_feed _), rfl⟩

/-- A code that has the fixed bits of an instruction's row decodes to an instruction of that row. -/
theorem decodesInRow_of_fits (j : Instr) (h : j.opcode.fits c = true) : DecodesInRow c j.opcode := by
  cases j with
  | rdCfg => exact decodesInRow_of_desc h (decodeBus_reg32 .cfg false) fun _ => rfl
  | wrCfg => exact decodesInRow_of_desc h (decodeBus_reg32 .cfg true) fun _ => rfl
  | rdStatus => exact decodesInRow_of_desc h (decodeBus_reg32 .status false) fun _ => rfl
  | wrStatus => exact decodesInRow_of_desc h (decodeBus_reg32 .status true) fun _ => rfl
  | rdIrqen => exact decodesInRow_of_desc h (decodeBus_reg32 .irqen false) fun _ => rfl
  | wrIrqen => exact decodesInRow_of_desc h (decodeBus_reg32 .irqen true) fun _ => rfl
  | wrCmd => exact decodesInRow_of_desc h (decodeBus_reg32 .cmd true) fun _ => rfl
  | rdPoly8 => exact decodesInRow_of_desc h (decodeBus_whole .poly false) fun _ => rfl
  | rdPoly4 => exact decodesInRow_of_halves h (decodeBus_half .poly false) rfl (by decide) fun _ _ => rfl
  | wrPoly8 => exact decodesInRow_of_desc h (decodeBus_whole .poly true) fun _ => rfl
  | wrPoly4 => exact decodesInRow_of_halves h (decodeBus_half .poly true) rfl (by decide) fun _ _ => rfl
  | rdInit8 => exact decodesInRow_of_desc h (decodeBus_whole .init false) fun _ => rfl
  | rdInit4 => exact decodesInRow_of_halves h (decodeBus_half .init false) rfl (by decide) fun _ _ => rfl
  | wrInit8 => exact decodesInRow_of_desc h (decodeBus_whole .init true) fun _ => rfl
  | wrInit4 => exact decodesInRow_of_halves h (decodeBus_half .init true) rfl (by decide) fun _ _ => rfl
  | rdXorout8 => exact decodesInRow_of_desc h (decodeBus_whole .xorout false) fun _ => rfl
  | rdXorout4 => exact decodesInRow_of_halves h (decodeBus_half .xorout false) rfl (by decide) fun _ _ => rfl
  | wrXorout8 => exact decodesInRow_of_desc h (decodeBus_whole .xorout true) fun _ => rfl
  | wrXorout4 => exact decodesInRow_of_halves h (decodeBus_half .xorout true) rfl (by decide) fun _ _ => rfl
  | rdCrc8 => exact decodesInRow_of_desc h (decodeBus_whole .crc false) fun _ => rfl
  | rdCrc4 => exact decodesInRow_of_halves h (decodeBus_half .crc false) rfl (by decide) fun _ _ => rfl
  | wrCrc8 => exact decodesInRow_of_desc h (decodeBus_whole .crc true) fun _ => rfl
  | wrCrc4 => exact decodesInRow_of_halves h (decodeBus_half .crc true) rfl (by decide) fun _ _ => rfl
  | rdResult8 => exact decodesInRow_of_desc h (decodeBus_whole .result false) fun _ => rfl
  | rdResult4 => exact decodesInRow_of_halves h (decodeBus_half .result false) rfl (by decide) fun _ _ => rfl
  | rdRevin8 => exact decodesInRow_of_desc h (decodeBus_whole .revin false) fun _ => rfl
  | rdRevin4 => exact decodesInRow_of_halves h (decodeBus_half .revin false) rfl (by decide) fun _ _ => rfl
  | wrRevin8 => exact decodesInRow_of_desc h (decodeBus_whole .revin true) fun _ => rfl
  | wrRevin4 => exact decodesInRow_of_halves h (decodeBus_half .revin true) rfl (by decide) fun _ _ => rfl
  | rdRevout8 => exact decodesInRow_of_desc h (decodeBus_whole .revout false) fun _ => rfl
  | rdRevout4 => exact decodesInRow_of_halves h (decodeBus_half .revout false) rfl (by decide) fun _ _ => rfl
  | wrData => exact decodesInRow_wrData h
  | rdTable8 => exact decodesInRow_rdTable8 h
  | rdTable4 => exact decodesInRow_rdTable4 h
  | feed => exact decodesInRow_feed h
  | nop | build | start | final | srst => exact decodesInRow_of_command h (by decide)

end

/-- Settles O3: the encoder writes the fixed bits of the row, and a code that has them decodes. -/
theorem decodingFollowsTheOpcodeTable : Obligations.DecodingFollowsTheOpcodeTable := by
  refine ⟨fun c i hi => ?_, fun c row hrow hfits => ?_⟩
  · obtain ⟨-, henc⟩ := encodesTo_of_decode hi
    rw [← fits_canonical, ← henc]
    exact fits_encode i
  · obtain ⟨j, -, rfl⟩ := List.mem_map.mp hrow
    exact decodesInRow_of_fits j hfits

/-- Settles O4: the decoder is run on the seven words. -/
theorem writtenOutWordsDecode : Obligations.WrittenOutWordsDecode := by
  unfold Obligations.WrittenOutWordsDecode
  decide

/-! ### The illegal accesses (R70) -/

section
variable {d : Word16} {e : BusError}

theorem decodeReg32_eq_error {r : Reg32} {v : Word32} :
    decodeReg32 r d v = .error e ↔
      (e = .size ∧ ¬ descSize d = .four) ∨
      (e = .wo ∧ descSize d = .four ∧ r = .cmd ∧ descWrites d = false) := by
  by_cases hs : descSize d = .four
  · cases r <;> cases hw : descWrites d <;> simp [decodeReg32, hs, hw, eq_comm (b := e)]
  · have hsize : decodeReg32 r d v = .error .size := by unfold decodeReg32; split <;> simp_all
    simp [hsize, hs, eq_comm (b := e)]

theorem decodeReg64Whole_eq_error {r : Reg64} {w : Bool} {v : Word64} :
    decodeReg64Whole r w v = .error e ↔ e = .ro ∧ w = true ∧ (r = .result ∨ r = .revout) := by
  cases r <;> cases w <;> simp [decodeReg64Whole, eq_comm (b := e)]

theorem decodeReg64Half_eq_error {r : Reg64} {w : Bool} {h : Half} {v : Word32} :
    decodeReg64Half r w h v = .error e ↔ e = .ro ∧ w = true ∧ (r = .result ∨ r = .revout) := by
  cases r <;> cases w <;> simp [decodeReg64Half, eq_comm (b := e)]

theorem decodeReg64_eq_error {r : Reg64} {v : Word64} :
    decodeReg64 r d v = .error e ↔
      (e = .size ∧ ¬ (IsWhole d ∨ IsHalf d)) ∨
      (e = .ro ∧ (IsWhole d ∨ IsHalf d) ∧ descWrites d = true ∧ (r = .result ∨ r = .revout)) := by
  by_cases h8 : IsWhole d
  · simp [decodeReg64_of_whole r h8, decodeReg64Whole_eq_error, h8]
  by_cases h4 : IsHalf d
  · simp [decodeReg64_of_half r h4, decodeReg64Half_eq_error, h4]
  · simp [decodeReg64_of_neither r h8 h4, h8, h4, eq_comm (b := e)]

theorem decodeTable_eq_error :
    decodeTable d = .error e ↔
      (e = .ro ∧ descWrites d = true) ∨ (e = .size ∧ descWrites d = false ∧ ¬ (IsWhole d ∨ IsHalf d)) := by
  cases hw : descWrites d with
  | true => simp [decodeTable, hw, eq_comm (b := e)]
  | false =>
    by_cases h8 : IsWhole d
    · simp [decodeTable_of_whole hw h8, h8]
    by_cases h4 : IsHalf d
    · simp [decodeTable_of_half hw h4, h4]
    · simp [decodeTable_of_neither hw h8 h4, h8, h4, eq_comm (b := e)]

end

theorem descSize_bytes (d : Word16) : (descSize d).bytes = 2 ^ (d.toNat / 2 ^ 13 % 4) := by
  rw [sizeBits_toNat, descSize_toNat]

theorem descBit12_iff (d : Word16) : descBit12 d = true ↔ d.toNat / 2 ^ 12 % 2 = 1 := by
  rw [descBit12_eq, decide_eq_true_iff]

theorem descWrites_iff (d : Word16) : descWrites d = true ↔ d.toNat / 2 ^ 15 = 1 := by
  have := d.isLt
  rw [descWrites_eq, decide_eq_true_iff]
  omega

theorem isWhole_or_isHalf_iff (d : Word16) :
    IsWhole d ∨ IsHalf d ↔
      ((descSize d).bytes = 4 ∨ (descSize d).bytes = 8) ∧ (descOff d).toNat % (descSize d).bytes = 0 := by
  rw [IsWhole, IsHalf]
  cases descSize d <;> simp [Size.bytes]

theorem reg32Off_range {r : Reg32} {n : Nat} (h : n = (reg32Off r).toNat) :
    (n < 0x10 ∧ n % 4 = 0) ∧ (r = .cmd ↔ n = 0x0C) := by
  cases r <;> simp [reg32Off] at * <;> omega

theorem reg64Off_range {r : Reg64} {n : Nat} (h : n / 8 * 8 = (reg64Off r).toNat) :
    ((0x10 ≤ n ∧ n < 0x38) ∨ (0x40 ≤ n ∧ n < 0x50)) ∧
    ((r = .result ∨ r = .revout) ↔ (0x30 ≤ n ∧ n < 0x38) ∨ (0x48 ≤ n ∧ n < 0x50)) := by
  cases r <;> simp [reg64Off] at * <;> omega

/-- Settles O5: the fields become numbers, and in each region the reasons are compared by arithmetic. -/
theorem illegalAccessesByReason : Obligations.IllegalAccessesByReason := by
  intro a off bit12 size dir reg32 reg64 whole
  have hoff : (descOff a.desc).toNat = off := descOff_toNat _
  have hsize : (descSize a.desc).bytes = size := descSize_bytes _
  have hfour : descSize a.desc = .four ↔ size = 4 := by rw [← hsize]; cases descSize a.desc <;> decide
  have hwhole : IsWhole a.desc ∨ IsHalf a.desc ↔ whole := by rw [isWhole_or_isHalf_iff, hsize, hoff]
  have hbit1 : descBit12 a.desc = true ↔ bit12 = 1 := descBit12_iff _
  have hdir1 : descWrites a.desc = true ↔ dir = 1 := descWrites_iff _
  have hbit0 : descBit12 a.desc = false ↔ bit12 = 0 := by rw [← Bool.not_eq_true, hbit1]; omega
  have hdir0 : descWrites a.desc = false ↔ dir = 0 := by
    have := a.desc.isLt
    rw [← Bool.not_eq_true, hdir1]; omega
  have hregion := decodeBus_region a
  generalize decodeBus a = res at hregion
  clear_value whole size dir bit12 off
  simp only [reg32, reg64]
  clear reg32 reg64
  cases hregion with
  | bit12 hb => simp [hbit1.mp hb]
  | window hb hwin =>
    rw [hbit0] at hb
    rw [hoff] at hwin
    simp only [decodeTable_eq_error, hwhole, hdir0, hdir1]
    by_cases hwh : whole <;> simp [hb, hwh] <;> omega
  | dataWrite hb ho hw =>
    have ho : off = 0x38 := by rw [← hoff, ho]; rfl
    simp [hbit0.mp hb, hdir1.mp hw, ho]
  | dataRead hb ho hw =>
    have ho : off = 0x38 := by rw [← hoff, ho]; rfl
    simp [hbit0.mp hb, hdir0.mp hw, ho]
  | reg32 hb r ho =>
    rw [hbit0] at hb
    obtain ⟨hrange, hcmd⟩ := reg32Off_range (hoff.symm.trans (congrArg BitVec.toNat ho))
    simp only [decodeReg32_eq_error, hfour, hcmd, hdir0]
    by_cases hwh : whole <;> simp [hb, hwh] <;> omega
  | reg64 hb r ho =>
    rw [hbit0] at hb
    rw [hoff] at ho
    obtain ⟨hrange, hro⟩ := reg64Off_range ho
    simp only [decodeReg64_eq_error, hro, hwhole, hdir1]
    by_cases hwh : whole <;> simp [hb, hwh] <;> omega
  | unmapped hb ho =>
    rw [hbit0] at hb
    simp only [hoff] at ho
    by_cases hwh : whole <;> simp [hb, hwh] <;> omega

end Sys2Proof.Machine
end

section
/-! What the encodings make the machine do (30_encoding.md): illegal command words (R69), the step that runs a table
word, half writes (R68), and the byte order of `feed.str` (R73). -/

namespace Sys2Proof.Machine

/-! ### Illegal command words (R69) -/

theorem decodeCmd_eq_none_iff (c : Word32) :
    decodeCmd c = none ↔
      6 ≤ c.toNat % 2 ^ 8 ∨ 2 ^ 16 ≤ c.toNat ∨ (c.toNat / 2 ^ 8 % 2 ^ 8 ≠ 0 ∧ c.toNat % 2 ^ 8 ≠ 3) := by
  have hillegal : (cmdRsv c ≠ 0 ∨ 0x06 ≤ (cmdOp c).toNat ∨ (cmdArg c ≠ 0 ∧ cmdOp c ≠ 0x03)) ↔
      6 ≤ c.toNat % 2 ^ 8 ∨ 2 ^ 16 ≤ c.toNat ∨ (c.toNat / 2 ^ 8 % 2 ^ 8 ≠ 0 ∧ c.toNat % 2 ^ 8 ≠ 3) := by
    simp only [BitVec.ofNat_eq_ofNat, ne_eq, ← BitVec.toNat_inj, cmdRsv_toNat, cmdArg_toNat, cmdOp_toNat,
      BitVec.toNat_ofNat]
    omega
  rw [← hillegal]
  unfold decodeCmd
  split
  · next h => exact iff_of_true rfl h
  · next h =>
    refine iff_of_false ?_ h
    have hlt : (cmdOp c).toNat < 6 := by omega
    interval_cases (cmdOp c).toNat <;> exact Option.some_ne_none _

theorem execWrCmd_of_none {c : Word32} (h : decodeCmd c = none) (s : State) :
    execWrCmd c s = raiseCmdError .illCmd s := by
  rw [execWrCmd, h]

/-- Settles O6: the illegal words are those that decode to no command, and a CMD write of one raises ILLCMD. -/
theorem illegalCommandWordRaisesIllcmd : Obligations.IllegalCommandWordRaisesIllcmd := by
  intro c s
  rw [← decodeCmd_eq_none_iff]
  exact ⟨fun hnone => execWrCmd_of_none hnone s, Option.ne_none_iff_exists'.mp⟩

/-! ### The step that runs a table word -/

/-- An access offered for the next turn is performed in it. -/
theorem step_offerNow (s : State) (a : Access) :
    step (s.offerNow a) = performAccess a { s with busy := s.busy && a.isStatusRead } := by
  have hfree : (s.offerNow a).holds a = false := by
    simp only [State.holds, State.offerNow, Bool.and_assoc, Bool.and_not_self, Bool.and_false]
  show (if (s.offerNow a).holds a then _ else _) = _
  rw [hfree]
  rfl

theorem performAccess_of_ok {a : Access} {i : Instr} (h : decodeBus a = .ok i) (s : State) :
    performAccess a s = exec i s := by
  rw [performAccess, h]

/-- The access that is never held is the one that decodes to RD.STATUS. -/
theorem isStatusRead_of_ok {a : Access} {i : Instr} (h : decodeBus a = .ok i) :
    a.isStatusRead = decide (i = .rdStatus) := by
  rw [Bool.eq_iff_iff, decide_eq_true_iff, a.isStatusRead_iff]
  constructor
  · exact fun ha => Except.ok.inj (h.symm.trans (decodeBus_statusRead ha))
  · rintro rfl
    obtain ⟨-, henc⟩ := encodesTo_of_decodeBus h
    exact (congrArg Access.desc (Code.bus.inj henc)).symm

/-- The access that carries a code performs the instruction the code decodes to (30_encoding.md R60). -/
theorem exists_performs_of_decode {c : Code} {i : Instr} (h : decode c = .ok i) :
    ∃ j, decodeBus c.access = .ok j ∧ Performs j i ∧ (j = .rdStatus ↔ i = .rdStatus) := by
  cases c with
  | bus a => exact ⟨i, decode_bus_eq_ok.mp h, .refl i, .rfl⟩
  | cmd c =>
    have hc := decode_cmd_eq_ok.mp h
    refine ⟨.wrCmd c, decode_bus_eq_ok.mp (decode_writeReg32 .cmd c rfl), .inr ⟨c, rfl, hc⟩, ?_⟩
    rcases decodeCmd_cases hc with rfl | rfl | rfl | ⟨b, rfl⟩ | rfl | rfl <;> simp

theorem decode_of_decodeTableWord {nbits w : Nat} {i : Instr} (h : decodeTableWord nbits w = some i) :
    decode (codeOfTable nbits w) = .ok i := by
  unfold decodeTableWord at h
  split at h <;> cases h
  assumption

/-- Settles O9: the word's access is performed at once, and performs what the word decodes to. -/
theorem stepRunsTheTableWord : Obligations.StepRunsTheTableWord := by
  intro s nbits w i _ hdecode
  obtain ⟨j, hj, hperforms, hstatus⟩ := exists_performs_of_decode (decode_of_decodeTableWord hdecode)
  rw [State.withFetchWord, step_offerNow, performAccess_of_ok hj, isStatusRead_of_ok hj,
    exec_of_performs hperforms, decide_eq_decide.mpr hstatus]

/-! ### Half writes (R68) -/

theorem withHalf_toNat (h : Half) (old : Word64) (v : Word32) :
    (withHalf h old v).toNat = if h = .high then v.toNat * 2 ^ 32 + old.toNat % 2 ^ 32
      else old.toNat / 2 ^ 32 * 2 ^ 32 + v.toNat := by
  cases h with
  | low => exact withHalf_low_toNat old v
  | high => exact withHalf_high_toNat old v

/-- Settles O35: the whole write of the merged value is the half write, for each of the five registers. -/
theorem halfWritesAreMergedWrites : Obligations.HalfWritesAreMergedWrites := by
  intro s h v old half whole hmem
  refine ⟨withHalf h old v, ?_, withHalf_toNat h old v⟩
  simp only [List.mem_cons, Prod.mk.injEq, List.not_mem_nil, or_false] at hmem
  rcases hmem with ⟨rfl, rfl, rfl⟩ | ⟨rfl, rfl, rfl⟩ | ⟨rfl, rfl, rfl⟩ | ⟨rfl, rfl, rfl⟩ | ⟨rfl, rfl, rfl⟩ <;>
    rfl

/-! ### The bytes of a value assembled little-endian (20_memory.md R42, R44) -/

theorem littleEndian_getLsbD (bs : List Byte) (j : Nat) (hj : j < 64) :
    (littleEndian bs).getLsbD j = (bs[j / 8]?.getD 0).getLsbD (j % 8) := by
  induction bs generalizing j with
  | nil => simp [littleEndian]
  | cons b rest ih =>
    simp only [littleEndian, BitVec.getLsbD_or, BitVec.getLsbD_shiftLeft, BitVec.getLsbD_setWidth]
    by_cases h8 : j < 8
    · simp [h8, hj, Nat.div_eq_of_lt h8, Nat.mod_eq_of_lt h8]
    · have hdiv : j / 8 = (j - 8) / 8 + 1 := by omega
      have hmod : j % 8 = (j - 8) % 8 := by omega
      rw [ih _ (by omega), hdiv, hmod, b.getLsbD_of_ge j (by omega)]
      simp [h8, hj]

theorem littleEndian_byte (bs : List Byte) {k : Nat} (hk : k < 8) :
    (littleEndian bs).extractLsb' (8 * k) 8 = bs[k]?.getD 0 := by
  refine BitVec.eq_of_getLsbD_eq fun j hj => ?_
  have hdiv : (8 * k + j) / 8 = k := by omega
  have hmod : (8 * k + j) % 8 = j := by omega
  rw [BitVec.getLsbD_extractLsb', littleEndian_getLsbD _ _ (by omega), hdiv, hmod, decide_eq_true hj, Bool.true_and]

theorem dataBytes_littleEndian {size : Size} {bs : List Byte} (h : bs.length = size.bytes) :
    dataBytes size (littleEndian bs) = bs := by
  have hle : size.bytes ≤ 8 := by cases size <;> decide
  refine List.ext_getElem (by simp [dataBytes, h]) fun k _ hk => ?_
  simp [dataBytes, littleEndian_byte bs (k := k) (by omega), hk]

theorem dataOfSize_getLsbD (size : Size) (v : Word64) (j : Nat) :
    (dataOfSize size v).getLsbD j = (decide (j < 8 * size.bytes) && v.getLsbD j) := by
  simp only [BitVec.getLsbD, dataOfSize_toNat, Nat.testBit_mod_two_pow]

theorem dataBytes_dataOfSize (size : Size) (v : Word64) : dataBytes size (dataOfSize size v) = dataBytes size v := by
  refine List.map_congr_left fun k hk => BitVec.eq_of_getLsbD_eq fun j hj => ?_
  have hk := List.mem_range.mp hk
  have hin : 8 * k + j < 8 * size.bytes := by omega
  rw [BitVec.getLsbD_extractLsb', BitVec.getLsbD_extractLsb', dataOfSize_getLsbD, decide_eq_true hin, Bool.true_and]

/-! ### Strings (R73) -/

/-- The accesses are DATA writes that carry the bytes, one after another. -/
def FeedsBytes (accesses : List Access) (bs : List Byte) : Prop :=
  ∃ ws : List (Size × Word64),
    accesses.map decodeBus = ws.map (fun w => .ok (.wrData w.1 w.2)) ∧ (ws.flatMap fun w => dataBytes w.1 w.2) = bs

theorem feedsBytes_nil : FeedsBytes [] [] := ⟨[], rfl, rfl⟩

theorem FeedsBytes.append {as as' : List Access} {bs bs' : List Byte} (h : FeedsBytes as bs)
    (h' : FeedsBytes as' bs') : FeedsBytes (as ++ as') (bs ++ bs') := by
  obtain ⟨ws, hdec, hbytes⟩ := h
  obtain ⟨ws', hdec', hbytes'⟩ := h'
  exact ⟨ws ++ ws', by rw [List.map_append, List.map_append, hdec, hdec'],
    by rw [List.flatMap_append, hbytes, hbytes']⟩

theorem feedsBytes_feedLine {size : Size} {bs : List Byte} (h : bs.length = size.bytes) :
    FeedsBytes [feedLine size (littleEndian bs)] bs := by
  refine ⟨[(size, dataOfSize size (dataOfSize size (littleEndian bs)))], ?_, ?_⟩
  · exact congrArg (fun r => [r]) (decodeBus_dataWrite _ _)
  · simp [dataBytes_dataOfSize, dataBytes_littleEndian h]

/-- One access of `size`, if there are bytes enough for it. -/
def feedChunk (size : Size) (bs : List Byte) : List Access :=
  if size.bytes ≤ bs.length then [feedLine size (littleEndian (bs.take size.bytes))] else []

/-- The bytes `feedChunk` leaves. -/
def afterChunk (size : Size) (bs : List Byte) : List Byte :=
  if size.bytes ≤ bs.length then bs.drop size.bytes else bs

theorem feedTail_eq (bs : List Byte) :
    feedTail bs = feedChunk .four bs ++ feedChunk .two (afterChunk .four bs) ++
      feedChunk .one (afterChunk .two (afterChunk .four bs)) := rfl

theorem afterChunk_length_lt {size : Size} {bs : List Byte} (h : bs.length < size.bytes + size.bytes) :
    (afterChunk size bs).length < size.bytes := by
  unfold afterChunk
  split
  · rw [List.length_drop]; omega
  · omega

theorem FeedsBytes.feedChunk_append {size : Size} {as : List Access} {bs : List Byte}
    (h : FeedsBytes as (afterChunk size bs)) : FeedsBytes (feedChunk size bs ++ as) bs := by
  unfold afterChunk at h
  unfold feedChunk
  split_ifs at h ⊢ with hlen
  · have hhead := feedsBytes_feedLine (size := size) (List.length_take_of_le hlen)
    have hall := hhead.append h
    rwa [List.take_append_drop] at hall
  · exact h

/-- After at most one access each of 4, 2 and 1 bytes, none of fewer than 8 bytes is left. -/
theorem feedsBytes_feedTail {bs : List Byte} (h : bs.length < 8) : FeedsBytes (feedTail bs) bs := by
  have h4 : (afterChunk .four bs).length < 4 := afterChunk_length_lt h
  have h2 : (afterChunk .two (afterChunk .four bs)).length < 2 := afterChunk_length_lt h4
  have h1 : (afterChunk .one (afterChunk .two (afterChunk .four bs))).length < 1 := afterChunk_length_lt h2
  have hend : FeedsBytes [] (afterChunk .one (afterChunk .two (afterChunk .four bs))) := by
    rw [List.length_eq_zero_iff.mp (Nat.lt_one_iff.mp h1)]
    exact feedsBytes_nil
  rw [feedTail_eq, List.append_assoc, ← List.append_nil (feedChunk .one _)]
  exact hend.feedChunk_append.feedChunk_append.feedChunk_append

theorem length_lt_eight {bs : List Byte}
    (h : ∀ b0 b1 b2 b3 b4 b5 b6 b7 rest, bs = b0 :: b1 :: b2 :: b3 :: b4 :: b5 :: b6 :: b7 :: rest → False) :
    bs.length < 8 := by
  match bs, h with
  | [], _ | [_], _ | [_, _], _ | [_, _, _], _ | [_, _, _, _], _ | [_, _, _, _, _], _ | [_, _, _, _, _, _], _
  | [_, _, _, _, _, _, _], _ => simp
  | b0 :: b1 :: b2 :: b3 :: b4 :: b5 :: b6 :: b7 :: rest, h => exact (h b0 b1 b2 b3 b4 b5 b6 b7 rest rfl).elim

/-- Settles O55: each group of 8 bytes is one access, and the rest is the tail's. -/
theorem feedStrKeepsTheByteOrder : Obligations.FeedStrKeepsTheByteOrder := by
  intro text
  show FeedsBytes (feedStr text) text
  induction text using feedStr.induct with
  | case1 b0 b1 b2 b3 b4 b5 b6 b7 rest ih =>
    rw [feedStr]
    exact (feedsBytes_feedLine (size := .eight) rfl).append ih
  | case2 rest h =>
    rw [feedStr.eq_2 _ h]
    exact feedsBytes_feedTail (length_lt_eight h)

end Sys2Proof.Machine
end

section
/-! The bit-reversal unit (40_bitrev.md): what REVOUT reads as, bit by bit (R80, R81), and that reversing twice gives
the operand back at width W (R82). -/

namespace Sys2Proof.Machine

/-- Bit reversal is its own inverse on the values of W bits (40_bitrev.md R82). -/
theorem rev_rev {W : Nat} (h : W ≤ 64) (x : Word64) : rev W (rev W x) = atWidth W x := by
  refine BitVec.eq_of_getLsbD_eq fun j _ => ?_
  rw [rev_getLsbD h, rev_getLsbD h, atWidth_getLsbD h]
  by_cases hj : j < W
  · have hmirror : W - 1 - j < W := by omega
    have hback : W - 1 - (W - 1 - j) = j := by omega
    rw [decide_eq_true hmirror, Bool.true_and, hback]
  · rw [decide_eq_false hj, Bool.false_and, Bool.false_and]

/-- Bit reversal reads only bits W-1..0 of its operand (40_bitrev.md R80). -/
theorem rev_atWidth {W : Nat} (h : W ≤ 64) (x : Word64) : rev W (atWidth W x) = rev W x := by
  rw [← rev_rev h, rev_rev h (rev W x), atWidth_eq_self h (rev_lt h x)]

theorem State.revout_eq_rev (s : State) : s.revout = rev s.W s.revin := rev_atWidth s.W_le s.revin

theorem State.revout_getLsbD (s : State) (j : Nat) :
    s.revout.getLsbD j = (decide (j < s.W) && s.revin.getLsbD (s.W - 1 - j)) := by
  rw [s.revout_eq_rev, rev_getLsbD s.W_le]

/-- With REVOUT as the operand, REVOUT reads REVIN[W-1:0] (40_bitrev.md R82). -/
theorem State.revout_of_revin_eq_revout {s t : State} (hwidth : t.width = s.width) (hrevin : t.revin = s.revout) :
    t.revout = atWidth s.W s.revin := by
  have hW : t.W = s.W := congrArg widthOf hwidth
  rw [t.revout_eq_rev, hrevin, hW, s.revout_eq_rev, rev_rev s.W_le]

theorem exec_rdRevout8 (s : State) : exec .rdRevout8 s = .next (s.respond (.word64 s.revout)) := rfl

theorem exec_rdRevout4 (h : Half) (s : State) :
    exec (.rdRevout4 h) s = .next (s.respond (.word32 (halfOf h s.revout))) := rfl

theorem exec_wrRevin8 (v : Word64) (s : State) :
    exec (.wrRevin8 v) s = .next (State.respond { s with revin := v } .written) := rfl

/-- Settles O39: both forms answer REVOUT, whose bits are those of REVIN mirrored at width W. -/
theorem readOfRevout : Obligations.ReadOfRevout := fun s =>
  ⟨s.revout, exec_rdRevout8 s, s.revout_getLsbD,
    ⟨_, exec_rdRevout4 .low s, halfOf_low_toNat s.revout⟩,
    ⟨_, exec_rdRevout4 .high s, halfOf_high_toNat s.revout⟩⟩

/-- Settles O40: the value read is REVOUT, and REVOUT with it as the operand is REVIN at width W. -/
theorem bitReversalIsAnInvolution : Obligations.BitReversalIsAnInvolution := by
  intro s t u v hread hwrite hagain
  rw [exec_rdRevout8] at hread hagain
  rw [exec_wrRevin8] at hwrite
  cases hread
  cases hwrite
  cases hagain
  have hrevout : State.revout (State.respond { s with revin := s.revout } .written) = atWidth s.W s.revin :=
    State.revout_of_revin_eq_revout rfl rfl
  exact ⟨_, rfl, by rw [hrevout, atWidth_toNat s.W_le]⟩

end Sys2Proof.Machine
end

section
/-! The table builder (41_table_builder.md): what an entry is (R91 to R93, R97), BUILD (R90), the builder's turn (R94),
and that nothing else writes T (R95). -/

namespace Sys2Proof.Machine

/-! ### The seed of an entry (R92, R93) -/

/-- A byte is its own value at every width. -/
theorem atWidth_byte {W : Nat} (h8 : 8 ≤ W) (hW : W ≤ 64) (i : Byte) :
    atWidth W (i.setWidth 64) = i.setWidth 64 := by
  have hpow : 2 ^ 8 ≤ 2 ^ W := Nat.pow_le_pow_right (by decide) h8
  have hbyte : (i.setWidth 64).toNat = i.toNat := BitVec.toNat_setWidth_of_le (by decide)
  exact atWidth_eq_self hW (hbyte ▸ Nat.lt_of_lt_of_le i.isLt hpow)

/-- The seed of the reflected mode, reversed, is the seed the normal mode has for the reversed byte. -/
theorem rev_byte {W : Nat} (h8 : 8 ≤ W) (hW : W ≤ 64) (i : Byte) :
    rev W (i.setWidth 64) = i.reverse.setWidth 64 <<< (W - 8) := by
  refine BitVec.eq_of_getLsbD_eq fun j hj => ?_
  simp only [rev_getLsbD hW, BitVec.getLsbD_setWidth, BitVec.getLsbD_shiftLeft, BitVec.getLsbD_reverse, BitVec.getMsbD]
  by_cases hlow : j < W - 8
  · have hge : 8 ≤ W - 1 - j := by omega
    simp [hlow, BitVec.getLsbD_of_ge i _ hge]
  · by_cases hin : j < W
    · have hmirror : 8 - 1 - (j - (W - 8)) = W - 1 - j := by omega
      have hbyte : j - (W - 8) < 8 := by omega
      have hword : j - (W - 8) < 64 := by omega
      have hback : W - 1 - j < 64 := by omega
      simp [hj, hlow, hin, hmirror, hbyte, hword, hback]
    · have hout : ¬ j - (W - 8) < 8 := by omega
      simp [hin, hout]

/-! ### The value of an entry (R91, R97) -/

/-- The reflected table is the normal table with its indices and its entries reversed. -/
theorem entry_reflected {W : Nat} (h8 : 8 ≤ W) (hW : W ≤ 64) (p : Word64) (i : Byte) :
    entry W p true i = rev W (entry W p false i.reverse) := by
  have hseed : rev W (i.reverse.setWidth 64 <<< (W - 8)) = i.setWidth 64 := by
    rw [← rev_byte h8 hW, rev_rev hW, atWidth_byte h8 hW]
  calc entry W p true i = (reflectedStep (rev W p))^[8] (i.setWidth 64) := rfl
    _ = rev W ((normalStep W p)^[8] (i.reverse.setWidth 64 <<< (W - 8))) := by
      rw [rev_normalStep_iterate (by omega) hW, hseed]
    _ = rev W (entry W p false i.reverse) := rfl

theorem normalStep_lt {W : Nat} (hW : W ≤ 64) (p c : Word64) : (normalStep W p c).toNat < 2 ^ W := by
  rw [normalStep]
  split <;> exact atWidth_lt hW _

/-- The last step of the normal mode masks the entry, and a reversed value has W bits. -/
theorem entry_lt {W : Nat} (h8 : 8 ≤ W) (hW : W ≤ 64) (p : Word64) (r : Bool) (i : Byte) :
    (entry W p r i).toNat < 2 ^ W := by
  cases r with
  | false => exact normalStep_lt hW p ((normalStep W p)^[7] (i.setWidth 64 <<< (W - 8)))
  | true =>
    rw [entry_reflected h8 hW]
    exact rev_lt hW _

/-- Both the seed and the bit steps are linear. -/
theorem entry_xor (W : Nat) (p : Word64) (r : Bool) (a b : Byte) :
    entry W p r (a ^^^ b) = entry W p r a ^^^ entry W p r b := by
  cases r with
  | false =>
    show (normalStep W p)^[8] ((a ^^^ b).setWidth 64 <<< (W - 8)) = _
    rw [BitVec.setWidth_xor, BitVec.shiftLeft_xor_distrib, iterate_xor (normalStep_xor W p)]; rfl
  | true =>
    show (reflectedStep (rev W p))^[8] ((a ^^^ b).setWidth 64) = _
    rw [BitVec.setWidth_xor, iterate_xor (reflectedStep_xor _)]; rfl

theorem entry_index_zero (W : Nat) (p : Word64) (r : Bool) : entry W p r 0 = 0 :=
  calc entry W p r (0 ^^^ 0) = entry W p r 0 ^^^ entry W p r 0 := entry_xor W p r 0 0
    _ = 0 := BitVec.xor_self

/-- The bits shifted out at the top do not come back. -/
theorem atWidth_shiftLeft_width {W n : Nat} (hW : W ≤ 64) (h : W ≤ n) (c : Word64) : atWidth W (c <<< n) = 0 := by
  refine BitVec.eq_of_getLsbD_eq fun j _ => ?_
  rw [atWidth_getLsbD hW, BitVec.getLsbD_shiftLeft]
  by_cases hj : j < W
  · have hlt : j < n := by omega
    simp [hlt]
  · simp [hj]

/-- The seed of index 1 is one bit, which seven steps shift to the top and the eighth turns into the polynomial. -/
theorem entry_normal_one {W : Nat} (h8 : 8 ≤ W) (hW : W ≤ 64) (p : Word64) : entry W p false 1 = atWidth W p := by
  have hseed : (1#64 <<< (W - 8)).toNat < 2 ^ (W - 7) := by
    have hpow : 2 ^ (W - 8) < 2 ^ (W - 7) := Nat.pow_lt_pow_right (by decide) (by omega)
    rw [BitVec.toNat_shiftLeft, Nat.shiftLeft_eq]
    exact Nat.lt_of_le_of_lt (Nat.mod_le _ _) (by simpa using hpow)
  have hseven : (normalStep W p)^[7] (1#64 <<< (W - 8)) = 1#64 <<< (W - 1) := by
    rw [normalStep_iterate_shift hW p 7 (by omega) _ hseed, ← BitVec.shiftLeft_add]
    congr 1
    omega
  have htop : (1#64 <<< (W - 1)).getLsbD (W - 1) = true := by
    have hlt : W - 1 < 64 := by omega
    simp [hlt]
  calc entry W p false 1 = normalStep W p ((normalStep W p)^[7] (1#64 <<< (W - 8))) :=
        Function.iterate_succ_apply' _ 7 _
    _ = atWidth W (1#64 <<< (W - 1) <<< 1 ^^^ p) := by rw [hseven, normalStep, htop, if_pos rfl]
    _ = atWidth W p := by
      rw [atWidth_xor, ← BitVec.shiftLeft_add, atWidth_shiftLeft_width hW (by omega)]
      exact BitVec.zero_xor

theorem reflectedStep_zero_iterate (k : Nat) (c : Word64) : (reflectedStep 0)^[k] c = c >>> k := by
  induction k generalizing c with
  | zero => simp
  | succ k ih =>
    have hstep : reflectedStep 0 c = c >>> 1 := by
      rw [reflectedStep]
      split
      · exact BitVec.xor_zero
      · rfl
    rw [Function.iterate_succ_apply, hstep, ih, ← BitVec.shiftRight_add, Nat.add_comm]

/-- With polynomial 0 the steps only shift, and shift the seed out; the normal table is the reflected one reversed. -/
theorem entry_poly_zero {W : Nat} (h8 : 8 ≤ W) (hW : W ≤ 64) (r : Bool) (i : Byte) : entry W 0 r i = 0 := by
  have hrev : rev W 0 = 0 := by
    refine BitVec.eq_of_getLsbD_eq fun j _ => ?_
    simp [rev_getLsbD hW]
  have hreflected (i : Byte) : entry W 0 true i = 0 := by
    show (reflectedStep (rev W 0))^[8] (i.setWidth 64) = 0
    rw [hrev, reflectedStep_zero_iterate]
    bv_omega
  cases r with
  | true => exact hreflected i
  | false =>
    calc entry W 0 false i = rev W (rev W (entry W 0 false i)) := by
          rw [rev_rev hW, atWidth_eq_self hW (entry_lt h8 hW 0 false i)]
      _ = rev W (entry W 0 true i.reverse) := by rw [entry_reflected h8 hW, BitVec.reverse_reverse_eq]
      _ = 0 := by rw [hreflected, hrev]

/-- Settles O42: an entry has W bits at any width from 8 to 64, whatever the polynomial. -/
theorem tableEntriesFitTheWidth : Obligations.TableEntriesFitTheWidth := fun width _ r i =>
  entry_lt (le_widthOf width) (widthOf_le width) _ r i

/-- Settles O43: the steps are linear, index 1 gives the polynomial in normal mode, and the reflected entry of 0x80 is
the reversed normal entry of 1. -/
theorem tableIsLinear : Obligations.TableIsLinear := by
  intro width poly r W p
  have h8 : 8 ≤ W := le_widthOf width
  have hW : W ≤ 64 := widthOf_le width
  have hone : entry W p false 1 = p := by rw [entry_normal_one h8 hW, atWidth_idem hW]
  have htop : entry W p true 0x80 = rev W poly := by
    have hrev : (0x80 : Byte).reverse = 1 := by decide
    rw [entry_reflected h8 hW, hrev, hone, rev_atWidth hW]
  refine ⟨entry_index_zero W p r, entry_xor W p r, hone, fun j => ?_, entry_poly_zero h8 hW r⟩
  rw [htop, rev_getLsbD hW]

/-! ### BUILD (R90) -/

theorem execBuild_of_uncoupled {s : State} (h : s.refin ≠ s.refout) : execBuild s = raiseCmdError .cfg s :=
  if_neg (mt s.cfgOk_iff.mp h)

/-- Settles O41: BUILD starts the builder or raises CFG. -/
theorem buildStartsTheBuilder : Obligations.BuildStartsTheBuilder := fun _ =>
  ⟨fun h => execBuild_of_coupled h, fun h => execBuild_of_uncoupled h⟩

/-! ### The builder's turn (R94) -/

/-- No access is accepted in a turn of a build, which leaves `port`: nothing is offered, an idle turn is offered and
consumed, or a held access is offered and stays. -/
def State.AcceptsNothing (s : State) (port : List Offer) : Prop :=
  (s.port = [] ∧ port = []) ∨ s.port = .idle :: port ∨
    (port = s.port ∧ ∃ a rest, s.port = .access a :: rest ∧ a.desc ≠ 0x4004)

/-- A turn leaves `port` of the offers and takes one level of the reset input. -/
def State.takeInputs (s : State) (port : List Offer) : State :=
  { s with port := port, resetLine := s.resetLine.tail }

/-- A turn of a build that accepts no access is a builder step. -/
theorem step_of_acceptsNothing {s : State} {port : List Offer} (hreset : s.resetLine.head? ≠ some true)
    (hb : s.busy = true) (h : s.AcceptsNothing port) :
    step s = .next (s.takeInputs port).builderStep := by
  rcases h with ⟨hp, rfl⟩ | hp | ⟨rfl, hheld⟩
  · rw [step_of_portWaits hb (.inl hp) hreset, ← hp]; rfl
  · have hturn := portTurn_of_no_access (s := s.takeLevel) (.inr (congrArg List.head? hp))
    have hport : s.takeLevel.port.tail = port := congrArg List.tail hp
    rw [hport] at hturn
    exact (step_of_reset_low hreset).trans (hturn.trans (congrArg _ (if_pos hb)))
  · exact step_of_portWaits hb (.inr hheld) hreset

/-- Below 256 the builder's step stores an entry of the table. -/
theorem State.builderStep_sets_entry {s : State} (h : s.bidx.toNat < 256) :
    s.builderStep = { s with
      table := s.table.set s.bidx.toNat
        (entry s.W (atWidth s.W s.poly) s.refin (BitVec.ofNat 8 s.bidx.toNat))
      bidx := BitVec.ofNat 9 (s.bidx.toNat + 1) } := by
  have hnext : s.bidx + 1 = BitVec.ofNat 9 (s.bidx.toNat + 1) := by bv_omega
  have htable (v : Word64) : s.table.setIfInBounds s.bidx.toNat v = s.table.set s.bidx.toNat v :=
    Vector.ext fun i hi => by rw [Vector.getElem_setIfInBounds, Vector.getElem_set]
  rw [State.builderStep_of_lt h, State.setEntry, hnext, htable]
  rfl

/-- Settles O12: the turn is a builder step, which below 256 writes the entry of BIDX and at 256 completes the build. -/
theorem builderWritesTheNextEntry : Obligations.BuilderWritesTheNextEntry := by
  intro s port hreset hb hport
  have hstep := step_of_acceptsNothing hreset hb hport
  exact ⟨fun hlt => hstep.trans (congrArg _ (State.builderStep_sets_entry (s := s.takeInputs port) hlt)),
    fun hlast => hstep.trans (congrArg _ (State.builderStep_of_ge (s := s.takeInputs port) hlast.ge))⟩

/-! ### What writes T (R95) -/

/-- An instruction writes neither T nor the inputs. -/
theorem Effect.keeps_table_and_inputs {s t : State} (h : Effect s t) :
    t.table = s.table ∧ t.port = s.port ∧ t.resetLine = s.resetLine ∧ t.resets = s.resets := by
  cases h with
  | fold bs _ _ => rw [State.foldl_foldByte]; exact ⟨rfl, rfl, rfl, rfl⟩
  | answer | error | cfg | status | irqen | poly | init | xorout | revin | crc | build | start | final | srst =>
    exact ⟨rfl, rfl, rfl, rfl⟩

/-- A turn of the builder that writes T is in a build with an entry left, and writes no entry but that of BIDX. -/
theorem State.builderTurn_writes {s : State} (h : s.builderTurn.table ≠ s.table) :
    s.busy = true ∧ s.bidx.toNat < 256 ∧
      ∀ i : Byte, i.toNat ≠ s.bidx.toNat → s.builderTurn.entryAt i = s.entryAt i := by
  by_cases hb : s.busy = true
  case neg =>
    rw [State.builderTurn_of_not_busy (Bool.eq_false_of_not_eq_true hb)] at h
    exact absurd rfl h
  case pos =>
    have hturn : s.builderTurn = s.builderStep := if_pos hb
    rw [hturn] at h ⊢
    rcases s.builderStep_cases with ⟨hlt, hstep⟩ | ⟨_, hstep⟩ <;> rw [hstep] at h ⊢
    · refine ⟨hb, hlt, fun i hi => ?_⟩
      exact Vector.getElem_setIfInBounds_ne i.isLt (Ne.symm hi)
    · exact absurd rfl h

/-- Settles O20: of the effects of a step only the reset and the builder's turn write T, and a read of the table
answers the entry. -/
theorem onlyTheBuilderWritesTheTable : Obligations.OnlyTheBuilderWritesTheTable := by
  refine ⟨fun i s t h => (exec_effect h).keeps_table_and_inputs, fun s t hstep hne => ?_, fun s i => rfl⟩
  cases step_effect hstep with
  | reset rest hhigh => exact .inl (hhigh ▸ rfl)
  | noAccess port rest => exact .inr (State.builderTurn_writes hne)
  | busError r port rest => exact absurd rfl hne
  | access i port rest t _ he =>
    obtain ⟨htable, -⟩ := (exec_effect he).keeps_table_and_inputs
    exact absurd htable hne

end Sys2Proof.Machine
end

section
/-! The streaming accumulator (42_streaming.md): START, FEED, DATA and FINAL case by case (R100 to R109), a DATA write
as a sequence of FEEDs (R106), and a stream that is saved and restored (R111). -/

namespace Sys2Proof.Machine

/-! ### START and FINAL (R100, R101, R108, R109) -/

theorem exec_start_of_coupled {s : State} (h : s.refin = s.refout) :
    exec .start s = .next (State.respond { s with reg := s.initReg, rvalid := true } .written) :=
  if_pos (s.cfgOk_iff.mpr h)

theorem exec_start_of_uncoupled {s : State} (h : s.refin ≠ s.refout) : exec .start s = raiseCmdError .cfg s :=
  if_neg (mt s.cfgOk_iff.mp h)

theorem exec_final_of_rvalid {s : State} (h : s.rvalid = true) :
    exec .final s = .next (State.respond { s with result := s.finalize } .written) :=
  if_pos h

theorem exec_final_of_not_rvalid {s : State} (h : s.rvalid = false) : exec .final s = raiseCmdError .noReg s :=
  if_neg (by simp [h])

/-- The register of a `W`-bit remainder: the remainder itself, or its reversal in reflected mode. -/
def mirrored (W : Nat) (reflected : Bool) (c : Word64) : Word64 := if reflected then rev W c else c

theorem State.initReg_eq_mirrored (s : State) : s.initReg = mirrored s.W s.refin (atWidth s.W s.init) := rfl

/-- Settles O44: START loads INIT at the width, mirrored in reflected mode, or raises CFG. -/
theorem startLoadsTheRegister : Obligations.StartLoadsTheRegister := by
  refine fun s => ⟨fun h => ⟨s.initReg, exec_start_of_coupled h, fun hnormal => ?_, fun hreflected j => ?_⟩,
    fun h => exec_start_of_uncoupled h⟩
  · rw [s.initReg_eq_mirrored, hnormal]
    exact atWidth_toNat s.W_le s.init
  · rw [s.initReg_eq_mirrored, hreflected, mirrored, if_pos rfl, rev_atWidth s.W_le, rev_getLsbD s.W_le]

/-- Settles O48: FINAL writes the finalised register, or raises NOREG. -/
theorem finalWritesTheResult : Obligations.FinalWritesTheResult := fun s =>
  ⟨fun h => ⟨s.finalize, exec_final_of_rvalid h, s.finalize_toNat⟩, fun h => exec_final_of_not_rvalid h⟩

/-! ### Folding bytes into the register (R103) -/

/-- The register after the bytes `bs` are folded into `r`, one after another. -/
def State.foldReg (s : State) (bs : List Byte) (r : Word64) : Word64 :=
  bs.foldl (fun r b => s.update b (atWidth s.W r)) r

/-- Folding bytes changes REG only. -/
theorem State.foldl_foldByte_eq (bs : List Byte) (s : State) :
    bs.foldl State.foldByte s = { s with reg := s.foldReg bs s.reg } := by
  induction bs generalizing s with
  | nil => rfl
  | cons b bs ih => rw [List.foldl_cons, ih]; rfl

theorem State.foldReg_append (s : State) (bs bs' : List Byte) (r : Word64) :
    s.foldReg (bs ++ bs') r = s.foldReg bs' (s.foldReg bs r) :=
  List.foldl_append

theorem State.foldReg_lt (s : State) (bs : List Byte) {r : Word64} (h : r.toNat < 2 ^ s.W) :
    (s.foldReg bs r).toNat < 2 ^ s.W := by
  induction bs generalizing r with
  | nil => exact h
  | cons b bs ih => exact ih (s.update_lt b _ (atWidth_lt s.W_le r))

/-- A fold depends on WIDTH, REFOUT and the table only. -/
theorem State.foldReg_congr {s u : State} (hwidth : u.width = s.width) (hrefout : u.refout = s.refout)
    (htable : u.table = s.table) : u.foldReg = s.foldReg := by
  have hW : u.W = s.W := congrArg widthOf hwidth
  have hupdate : u.update = s.update := by
    funext b r
    simp only [State.update, hW, hrefout, State.entryAt_congr htable]
  funext bs r
  rw [State.foldReg, State.foldReg, hupdate, hW]

/-! ### FEED and DATA (R102, R105, R106) -/

/-- What FEED and DATA do with their bytes: one check, then every byte in order. -/
def State.feedBytes (s : State) (bs : List Byte) : Outcome :=
  match s.feedCheck with
  | some e => raiseCmdError e s
  | none => (bs.foldl State.foldByte s).written

theorem exec_feed (b : Byte) (s : State) : exec (.feed b) s = s.feedBytes [b] := rfl

theorem exec_wrData (size : Size) (v : Word64) (s : State) :
    exec (.wrData size v) s = s.feedBytes (dataBytes size v) := rfl

theorem exists_exec_eq_feedBytes {i : Instr} (h : IsFeed i) (s : State) : ∃ bs, exec i s = s.feedBytes bs := by
  rcases h with ⟨b, hp⟩ | ⟨size, v, rfl⟩
  · exact ⟨[b], (exec_of_performs hp s).trans (exec_feed b s)⟩
  · exact ⟨_, exec_wrData size v s⟩

theorem State.feedBytes_of_error {s : State} {e : CmdError} (h : s.feedCheck = some e) (bs : List Byte) :
    s.feedBytes bs = raiseCmdError e s := by
  rw [State.feedBytes, h]

theorem State.feedCheck_of_valid {s : State} (ht : s.tvalid = true) (hr : s.rvalid = true) : s.feedCheck = none := by
  rw [State.feedCheck, ht, hr]; rfl

theorem State.feedBytes_of_none {s : State} (h : s.feedCheck = none) (bs : List Byte) :
    s.feedBytes bs = State.written { s with reg := s.foldReg bs s.reg } := by
  rw [State.feedBytes, h, State.foldl_foldByte_eq]

/-- Settles O46: FEED and DATA do one check, for the table first, and then fold. -/
theorem feedAndDataNeedTableAndRegister : Obligations.FeedAndDataNeedTableAndRegister := by
  intro s i hi
  obtain ⟨bs, hexec⟩ := exists_exec_eq_feedBytes hi s
  rw [hexec]
  refine ⟨fun ht => ?_, fun ht hr => ?_, fun ht hr => ⟨_, State.feedBytes_of_none (s.feedCheck_of_valid ht hr) bs⟩⟩
  · have hcheck : s.feedCheck = some .noTable := by rw [State.feedCheck, ht]; rfl
    exact State.feedBytes_of_error hcheck bs
  · have hcheck : s.feedCheck = some .noReg := by rw [State.feedCheck, ht, hr]; rfl
    exact State.feedBytes_of_error hcheck bs

/-- A byte offset by the low byte of a register, as a table index. -/
theorem setWidth_xor_byte (r : Word64) (b : Byte) :
    r.setWidth 8 ^^^ b = BitVec.ofNat 8 (r.toNat % 2 ^ 8 ^^^ b.toNat) := by
  apply BitVec.eq_of_toNat_eq
  have hlt : r.toNat % 2 ^ 8 ^^^ b.toNat < 2 ^ 8 := Nat.xor_lt_two_pow (Nat.mod_lt _ (by decide)) b.isLt
  rw [BitVec.toNat_xor, BitVec.toNat_setWidth, BitVec.toNat_ofNat, Nat.mod_eq_of_lt hlt]

/-- The high byte of a register of `W` bits, offset by a byte, as a table index. -/
theorem extractLsb'_xor_byte {W : Nat} (h8 : 8 ≤ W) {r : Word64} (hr : r.toNat < 2 ^ W) (b : Byte) :
    r.extractLsb' (W - 8) 8 ^^^ b = BitVec.ofNat 8 (r.toNat / 2 ^ (W - 8) ^^^ b.toNat) := by
  apply BitVec.eq_of_toNat_eq
  have hbyte : r.toNat / 2 ^ (W - 8) < 2 ^ 8 := by
    apply Nat.div_lt_of_lt_mul
    rwa [← Nat.pow_add, Nat.sub_add_cancel h8]
  rw [BitVec.toNat_xor, BitVec.extractLsb'_toNat, Nat.shiftRight_eq_div_pow, Nat.mod_eq_of_lt hbyte,
    BitVec.toNat_ofNat, Nat.mod_eq_of_lt (Nat.xor_lt_two_pow hbyte b.isLt)]

/-- Settles O45: FEED folds one byte, and each of the three cases of the update is read as arithmetic. -/
theorem feedUpdatesTheRegister : Obligations.FeedUpdatesTheRegister := by
  intro s b ht hr
  refine ⟨_, State.feedBytes_of_none (s.feedCheck_of_valid ht hr) [b], s.foldByte_lt b, ?_⟩
  intro r T
  have hreg : (atWidth s.W s.reg).toNat = r := atWidth_toNat s.W_le _
  have hT (k : Nat) : (atWidth s.W (s.entryAt (BitVec.ofNat 8 k))).toNat = T k := atWidth_toNat s.W_le _
  have hlt : (atWidth s.W s.reg).toNat < 2 ^ s.W := atWidth_lt s.W_le _
  show (s.update b (atWidth s.W s.reg)).toNat = _
  unfold State.update
  split
  case isTrue h8 =>
    have hlow : r % 2 ^ 8 = r := by
      rw [← hreg, ← h8]; exact Nat.mod_eq_of_lt hlt
    rw [setWidth_xor_byte, hreg, hlow, ← hT, h8]
  case isFalse =>
    split
    · rw [BitVec.toNat_xor, BitVec.toNat_ushiftRight, Nat.shiftRight_eq_div_pow, setWidth_xor_byte, hreg, hT]
    · have hpow : 2 ^ s.W ∣ 2 ^ 64 := Nat.pow_dvd_pow 2 s.W_le
      rw [BitVec.toNat_xor, extractLsb'_xor_byte s.le_W hlt, atWidth_toNat s.W_le (_ <<< _), BitVec.toNat_shiftLeft,
        Nat.shiftLeft_eq, Nat.mod_mod_of_dvd _ hpow, hreg, hT]

/-! ### A sequence of instructions, and a sequence of FEEDs (R106) -/

theorem execAll_cons_of_next {i : Instr} {s t : State} (h : exec i s = .next t) (rest : List Instr) :
    execAll (i :: rest) s = execAll rest t := by
  rw [execAll, h]

theorem exists_of_execAll_cons {i : Instr} {is : List Instr} {s t : State} (h : execAll (i :: is) s = .next t) :
    ∃ u, exec i s = .next u ∧ execAll is u = .next t := by
  rw [execAll] at h
  split at h
  case h_1 u hu => exact ⟨u, hu, h⟩
  case h_2 | h_3 => cases h

theorem execAll_append_of_next {is : List Instr} {s t : State} (h : execAll is s = .next t) (rest : List Instr) :
    execAll (is ++ rest) s = execAll rest t := by
  induction is generalizing s with
  | nil => cases h; rfl
  | cons i is ih =>
    obtain ⟨u, hu, hrest⟩ := exists_of_execAll_cons h
    rw [List.cons_append, execAll_cons_of_next hu, ih hrest]

/-- An error that is recorded is reported by the next check too, and recording it again changes nothing
(60_exceptions.md R150). -/
theorem State.recordError_again (e : CmdError) (s : State) :
    ((s.recordError e).respond .written).recordError e = (s.recordError e).respond .written := by
  have hcode : e.code ≠ 0 := by cases e <;> decide
  have herr : (if (s.recordError e).err = 0 then e.code else (s.recordError e).err) = (s.recordError e).err := by
    rw [State.recordError_err]
    split <;> simp_all
  exact congrArg (fun code => State.respond { s with err := code } .written) herr

/-- At least one FEED is one check and a fold: a refused FEED leaves a state that refuses the others. -/
theorem execAll_feeds (b : Byte) (bs : List Byte) (s : State) :
    execAll (feeds (b :: bs)) s = s.feedBytes (b :: bs) := by
  induction bs generalizing s b with
  | nil =>
    show execAll [.feed b] s = _
    rw [← exec_feed, execAll]
    split <;> simp_all [execAll]
  | cons b' bs ih =>
    show execAll (.feed b :: feeds (b' :: bs)) s = _
    cases hcheck : s.feedCheck with
    | some e =>
      have hfeed : exec (.feed b) s = .next ((s.recordError e).respond .written) := State.feedBytes_of_error hcheck [b]
      have hagain : ((s.recordError e).respond .written).feedCheck = some e := hcheck
      rw [execAll_cons_of_next hfeed, ih, State.feedBytes_of_error hagain, State.feedBytes_of_error hcheck,
        raiseCmdError_eq, State.recordError_again]
      rfl
    | none =>
      have hfeed : exec (.feed b) s = .next ((s.foldByte b).respond .written) := State.feedBytes_of_none hcheck [b]
      have hagain : ((s.foldByte b).respond .written).feedCheck = none := hcheck
      rw [execAll_cons_of_next hfeed, ih, State.feedBytes_of_none hagain, State.feedBytes_of_none hcheck]
      rfl

theorem dataBytes_eq_ofNat (size : Size) (v : Word64) :
    dataBytes size v = (List.range size.bytes).map fun k => BitVec.ofNat 8 (v.toNat / 2 ^ (8 * k)) :=
  List.map_congr_left fun k _ => congrArg (BitVec.ofNat 8) (Nat.shiftRight_eq_div_pow v.toNat (8 * k))

/-- Settles O47: both sides are one check and a fold of the same bytes, of which there is at least one. -/
theorem dataWriteIsASequenceOfFeeds : Obligations.DataWriteIsASequenceOfFeeds := by
  refine fun s size v => ⟨?_, fun ht hr => ⟨_, State.feedBytes_of_none (s.feedCheck_of_valid ht hr) (dataBytes size v)⟩⟩
  have hne : dataBytes size v ≠ [] := by cases size <;> exact List.cons_ne_nil _ _
  obtain ⟨b, bs, hbytes⟩ := List.exists_cons_of_ne_nil hne
  calc exec (.wrData size v) s = s.feedBytes (dataBytes size v) := exec_wrData size v s
    _ = execAll (feeds (dataBytes size v)) s := by rw [hbytes, execAll_feeds]
    _ = _ := by rw [dataBytes_eq_ofNat, feeds, List.map_map]; rfl

/-- With table and register valid, FEEDs fold their bytes into REG, and change nothing else but the response. -/
theorem execAll_feeds_of_valid {s : State} (ht : s.tvalid = true) (hr : s.rvalid = true) (bs : List Byte) :
    ∃ resp, execAll (feeds bs) s = .next { s with reg := s.foldReg bs s.reg, resp := resp } := by
  cases bs with
  | nil => exact ⟨s.resp, rfl⟩
  | cons b bs => exact ⟨_, (execAll_feeds b bs s).trans (State.feedBytes_of_none (s.feedCheck_of_valid ht hr) _)⟩

/-! ### A stream saved and restored (R111) -/

/-- Settles O50: the saved register has W bits, so WR.CRC restores it, and the fold depends on nothing else that may
have changed. -/
theorem savedStreamContinues : Obligations.SavedStreamContinues := by
  intro s t1 t u d1 d2 hinv ht hr hfirst hall hwidth hrefout htable hut
  obtain ⟨_, hfeeds⟩ := execAll_feeds_of_valid ht hr d1
  cases hfeeds.symm.trans hfirst
  obtain ⟨_, hfeeds⟩ := execAll_feeds_of_valid ht hr (d1 ++ d2)
  cases hfeeds.symm.trans hall
  let saved := s.foldReg d1 s.reg
  obtain ⟨_, hrest⟩ := execAll_feeds_of_valid (s := (u.writeCrc saved).respond .written) hut rfl d2
  refine ⟨_, (execAll_cons_of_next rfl _).trans hrest, ?_⟩
  have hlt : saved.toNat < 2 ^ s.W := s.foldReg_lt d1 (hinv.reg_lt hr)
  have hrestored : atWidth u.W saved = saved :=
    atWidth_eq_self u.W_le (show _ < 2 ^ widthOf u.width from hwidth ▸ hlt)
  calc u.foldReg d2 (atWidth u.W saved) = s.foldReg d2 saved := by
        rw [hrestored, State.foldReg_congr hwidth hrefout htable]
    _ = s.foldReg (d1 ++ d2) s.reg := (s.foldReg_append d1 d2 s.reg).symm

end Sys2Proof.Machine
end

section
/-! The reference CRC (42_streaming.md R113): with a built table a byte update is eight bit steps of the reference, on a
mirrored register in reflected mode, so a stream computes the reference CRC. -/

namespace Sys2Proof.Machine

/-! ### A byte update as shift and lookup (R103) -/

/-- The update of the normal mode, at width 8 too: there the shift leaves nothing. -/
theorem State.update_of_normal {s : State} (h : s.refout = false) (b : Byte) (r : Word64) :
    s.update b r = atWidth s.W (r <<< 8) ^^^ atWidth s.W (s.entryAt (r.extractLsb' (s.W - 8) 8 ^^^ b)) := by
  by_cases h8 : s.W = 8
  · have hbyte : r.extractLsb' (8 - 8) 8 = r.setWidth 8 := (BitVec.setWidth_eq_extractLsb' (by decide)).symm
    rw [State.update, if_pos h8, h8, atWidth_shiftLeft_width (by decide) (by decide), hbyte]
    exact BitVec.zero_xor.symm
  · rw [State.update, if_neg h8, h, if_neg Bool.false_ne_true]

/-- The update of the reflected mode, at width 8 too: there the shift leaves nothing. -/
theorem State.update_of_reflected {s : State} (h : s.refout = true) (b : Byte) {r : Word64} (hr : r.toNat < 2 ^ s.W) :
    s.update b r = (r >>> 8) ^^^ atWidth s.W (s.entryAt (r.setWidth 8 ^^^ b)) := by
  by_cases h8 : s.W = 8
  · have hshift : r >>> 8 = 0 := by
      rw [h8] at hr
      bv_omega
    rw [State.update, if_pos h8, h8, hshift]
    exact BitVec.zero_xor.symm
  · rw [State.update, if_neg h8, if_pos h]

/-! ### The seed byte of a bit-serial step (R113) -/

/-- A byte in the high byte of `W` bits, where the bit-serial steps take it. -/
def seedByte (W : Nat) (b : Byte) : Word64 := b.setWidth 64 <<< (W - 8)

theorem refByte_eq_normalStep (W : Nat) (p : Word64) (refl : Bool) (c : Word64) (b : Byte) :
    refByte W p refl c b = (normalStep W p)^[8] (c ^^^ seedByte W (if refl then b.reverse else b)) := rfl

section
variable {W : Nat} (h8 : 8 ≤ W) (hW : W ≤ 64) (b : Byte)

include h8 hW in
theorem seedByte_lt : (seedByte W b).toNat < 2 ^ W := by
  rw [seedByte, ← BitVec.reverse_reverse_eq (x := b), ← rev_byte h8 hW]
  exact rev_lt hW _

include h8 hW in
theorem rev_seedByte_reverse : rev W (seedByte W b.reverse) = b.setWidth 64 := by
  rw [seedByte, ← rev_byte h8 hW, rev_rev hW, atWidth_byte h8 hW]

include hW in
theorem extractLsb'_seedByte : (seedByte W b).extractLsb' (W - 8) 8 = b := by
  refine BitVec.eq_of_getLsbD_eq fun j hj => ?_
  have hin : W - 8 + j < 64 := by omega
  simp [seedByte, hj, hin]

include h8 hW in
theorem atWidth_seedByte_shiftLeft : atWidth W (seedByte W b <<< 8) = 0 := by
  rw [seedByte, ← BitVec.shiftLeft_add, Nat.sub_add_cancel h8, atWidth_shiftLeft_width hW (Nat.le_refl W)]

end

/-! ### One byte with a built table (R103, R113) -/

theorem refByte_lt {W : Nat} (hW : W ≤ 64) (p : Word64) (refl : Bool) (c : Word64) (b : Byte) :
    (refByte W p refl c b).toNat < 2 ^ W := by
  rw [refByte_eq_normalStep, Function.iterate_succ_apply']
  exact normalStep_lt hW p _

theorem mirrored_lt {W : Nat} (hW : W ≤ 64) (refl : Bool) {c : Word64} (hc : c.toNat < 2 ^ W) :
    (mirrored W refl c).toNat < 2 ^ W := by
  cases refl
  · exact hc
  · exact rev_lt hW c

section
variable {s : State} (hbuilt : s.TableBuilt 256)
include hbuilt

theorem State.atWidth_entryAt_of_built (i : Byte) :
    atWidth s.W (s.entryAt i) = entry s.W (atWidth s.W s.poly) s.refin i := by
  rw [hbuilt i i.isLt, State.entryFor]
  exact atWidth_eq_self s.W_le (entry_lt s.le_W s.W_le _ _ _)

/-- In normal mode the byte goes into the top of the register, and one lookup is eight bit steps. -/
theorem State.update_eq_refByte_of_normal (hin : s.refin = false) (hout : s.refout = false) (b : Byte) {c : Word64}
    (hc : c.toNat < 2 ^ s.W) : s.update b c = refByte s.W (atWidth s.W s.poly) false c b := by
  let seed := seedByte s.W b
  have hlt : (c ^^^ seed).toNat < 2 ^ s.W := by
    rw [BitVec.toNat_xor]
    exact Nat.xor_lt_two_pow hc (seedByte_lt s.le_W s.W_le b)
  have hshift : atWidth s.W ((c ^^^ seed) <<< 8) = atWidth s.W (c <<< 8) := by
    rw [BitVec.shiftLeft_xor_distrib, atWidth_xor, atWidth_seedByte_shiftLeft s.le_W s.W_le]
    exact BitVec.xor_zero
  have hindex : (c ^^^ seed).extractLsb' (s.W - 8) 8 = c.extractLsb' (s.W - 8) 8 ^^^ b := by
    rw [BitVec.extractLsb'_xor, extractLsb'_seedByte s.W_le]
  calc s.update b c = atWidth s.W ((c ^^^ seed) <<< 8) ^^^
        entry s.W (atWidth s.W s.poly) false ((c ^^^ seed).extractLsb' (s.W - 8) 8) := by
        rw [State.update_of_normal hout, State.atWidth_entryAt_of_built hbuilt, hin, hshift, hindex]
    _ = (normalStep s.W (atWidth s.W s.poly))^[8] (c ^^^ seed) := (normal_lookup s.le_W s.W_le _ _ hlt).symm
    _ = refByte s.W (atWidth s.W s.poly) false c b := by rw [refByte_eq_normalStep, if_neg Bool.false_ne_true]

/-- In reflected mode the byte goes into the bottom of the mirrored register, and one lookup is eight mirrored bit
steps. -/
theorem State.update_eq_refByte_of_reflected (hin : s.refin = true) (hout : s.refout = true) (b : Byte) (c : Word64) :
    s.update b (rev s.W c) = rev s.W (refByte s.W (atWidth s.W s.poly) true c b) := by
  let seed := seedByte s.W b.reverse
  have hmirror : rev s.W (c ^^^ seed) = rev s.W c ^^^ b.setWidth 64 := by
    rw [rev_xor s.W_le, rev_seedByte_reverse s.le_W s.W_le]
  have hshift : (rev s.W c ^^^ b.setWidth 64) >>> 8 = rev s.W c >>> 8 := by
    have hbyte : b.setWidth 64 >>> 8 = 0 := by bv_omega
    rw [BitVec.ushiftRight_xor_distrib, hbyte]
    exact BitVec.xor_zero
  have hindex : (rev s.W c ^^^ b.setWidth 64).setWidth 8 = (rev s.W c).setWidth 8 ^^^ b := by
    rw [BitVec.setWidth_xor, BitVec.setWidth_setWidth_of_le _ (by decide), BitVec.setWidth_eq]
  calc s.update b (rev s.W c) = ((rev s.W c ^^^ b.setWidth 64) >>> 8) ^^^
        entry s.W (atWidth s.W s.poly) true ((rev s.W c ^^^ b.setWidth 64).setWidth 8) := by
        rw [State.update_of_reflected hout b (rev_lt s.W_le c), State.atWidth_entryAt_of_built hbuilt, hin, hshift,
          hindex]
    _ = (reflectedStep (rev s.W (atWidth s.W s.poly)))^[8] (rev s.W (c ^^^ seed)) := by
        rw [reflected_lookup, hmirror]
    _ = rev s.W ((normalStep s.W (atWidth s.W s.poly))^[8] (c ^^^ seed)) :=
        (rev_normalStep_iterate (Nat.le_trans (by decide) s.le_W) s.W_le _ 8 _).symm
    _ = rev s.W (refByte s.W (atWidth s.W s.poly) true c b) := by rw [refByte_eq_normalStep, if_pos rfl]

variable (hcoupled : s.refin = s.refout)
include hcoupled

theorem State.update_mirrored (b : Byte) {c : Word64} (hc : c.toNat < 2 ^ s.W) :
    s.update b (mirrored s.W s.refin c) = mirrored s.W s.refin (refByte s.W (atWidth s.W s.poly) s.refin c b) := by
  cases hin : s.refin with
  | false => exact State.update_eq_refByte_of_normal hbuilt hin (hcoupled.symm.trans hin) b hc
  | true => exact State.update_eq_refByte_of_reflected hbuilt hin (hcoupled.symm.trans hin) b c

/-! ### A message (R113) -/

/-- The engine's fold of a message is the reference's, on the mirrored register. -/
theorem State.foldReg_mirrored (data : List Byte) {c : Word64} (hc : c.toNat < 2 ^ s.W) :
    s.foldReg data (mirrored s.W s.refin c) =
      mirrored s.W s.refin (data.foldl (refByte s.W (atWidth s.W s.poly) s.refin) c) := by
  induction data generalizing c with
  | nil => rfl
  | cons b data ih =>
    have hmasked : atWidth s.W (mirrored s.W s.refin c) = mirrored s.W s.refin c :=
      atWidth_eq_self s.W_le (mirrored_lt s.W_le _ hc)
    calc s.foldReg (b :: data) (mirrored s.W s.refin c)
        = s.foldReg data (s.update b (atWidth s.W (mirrored s.W s.refin c))) := rfl
      _ = _ := by
        rw [hmasked, State.update_mirrored hbuilt hcoupled b hc, ih (refByte_lt s.W_le _ _ _ _), List.foldl_cons]

/-- The register after a message, finalised, is the reference CRC. -/
theorem State.finalize_eq_refCrc (data : List Byte) (hreg : s.reg = s.foldReg data s.initReg) :
    s.finalize = refCrc s.W s.poly s.init s.refin s.xorout data := by
  have hlt : s.reg.toNat < 2 ^ s.W := hreg ▸ s.foldReg_lt data s.initReg_lt
  have hmirrored := State.foldReg_mirrored hbuilt hcoupled data (atWidth_lt s.W_le s.init)
  rw [State.finalize, atWidth_eq_self s.W_le hlt, hreg, s.initReg_eq_mirrored, hmirrored]
  rfl

end

/-! ### The stream (R113) -/

/-- The state after START and a FEED of each byte of `data`. -/
def State.streamed (s : State) (data : List Byte) (resp : Option Response) : State :=
  { s with reg := s.foldReg data s.initReg, rvalid := true, resp := resp }

theorem execAll_start_feeds {s : State} (ht : s.tvalid = true) (hcoupled : s.refin = s.refout) (data : List Byte) :
    ∃ resp, execAll (.start :: feeds data) s = .next (s.streamed data resp) := by
  obtain ⟨resp, hfeeds⟩ := execAll_feeds_of_valid
    (s := State.respond { s with reg := s.initReg, rvalid := true } .written) ht rfl data
  exact ⟨resp, (execAll_cons_of_next (exec_start_of_coupled hcoupled) (feeds data)).trans hfeeds⟩

/-- Settles O52: START loads the mirrored initial remainder, the FEEDs fold the message, and FINAL finalises. -/
theorem streamComputesTheReferenceCrc : Obligations.StreamComputesTheReferenceCrc := by
  intro s data hinv ht
  have hcoupled := hinv.table_coupled ht
  have hbuilt := hinv.table_current ht
  obtain ⟨resp, hstream⟩ := execAll_start_feeds ht hcoupled data
  have hfinal : exec .final (s.streamed data resp) = .next _ := exec_final_of_rvalid rfl
  refine ⟨_, (execAll_append_of_next hstream _).trans (execAll_cons_of_next hfinal []), ?_⟩
  exact State.finalize_eq_refCrc (s := s.streamed data resp) hbuilt hcoupled data rfl

end Sys2Proof.Machine
end

section
/-! The host's accesses of a checksum (42_streaming.md R110, 70_reset_and_hazards.md R174): a run of accepted accesses
performs their instructions, so the script configures the engine, builds its table, and streams the message to a read of
the reference CRC (R113). -/

namespace Sys2Proof.Machine

/-! ### Runs -/

/-- A run goes on from where its first steps have led. -/
theorem run_add {m : Nat} (n : Nat) {s t : State} (h : Host.Core.run Sys2Proof.core m s = .next t) :
    Host.Core.run Sys2Proof.core (m + n) s = Host.Core.run Sys2Proof.core n t := by
  induction m generalizing s with
  | zero => cases h; rw [Nat.zero_add]
  | succ m ih =>
    rw [Nat.succ_add]
    simp only [Host.Core.run] at h ⊢
    split at h
    case h_1 u hu => exact ih h
    case h_2 | h_3 => cases h

/-! ### An instruction and the offers of the port -/

/-- The host offers the accesses `as`, one a turn. -/
def State.offering (s : State) (as : List Access) : State := { s with port := as.map .access }

theorem State.offering_of_port {s : State} {as : List Access} (h : s.port = as.map .access) : s.offering as = s := by
  rw [State.offering, ← h]

theorem feedBytes_offering {s t : State} {bs : List Byte} (h : s.feedBytes bs = .next t) (as : List Access) :
    (s.offering as).feedBytes bs = .next (t.offering as) := by
  have hsame : (s.offering as).feedCheck = s.feedCheck := rfl
  cases hcheck : s.feedCheck with
  | some e =>
    cases (State.feedBytes_of_error hcheck bs).symm.trans h
    exact State.feedBytes_of_error (hsame.trans hcheck) bs
  | none =>
    cases (State.feedBytes_of_none hcheck bs).symm.trans h
    exact State.feedBytes_of_none (hsame.trans hcheck) bs

/-- BUILD, START and FINAL: a flag decides between a write to the state and a command error. -/
theorem checked_offering {ok : Bool} {e : CmdError} {s u t : State}
    (h : (if ok then u.written else raiseCmdError e s) = .next t) (as : List Access) :
    (if ok then (u.offering as).written else raiseCmdError e (s.offering as)) = .next (t.offering as) := by
  cases ok <;> cases h <;> rfl

theorem exec_build_offering {s t : State} (h : exec .build s = .next t) (as : List Access) :
    exec .build (s.offering as) = .next (t.offering as) :=
  checked_offering (ok := s.cfgOk) h as

theorem exec_start_offering {s t : State} (h : exec .start s = .next t) (as : List Access) :
    exec .start (s.offering as) = .next (t.offering as) :=
  checked_offering (ok := s.cfgOk) h as

theorem exec_final_offering {s t : State} (h : exec .final s = .next t) (as : List Access) :
    exec .final (s.offering as) = .next (t.offering as) :=
  checked_offering (ok := s.rvalid) h as

theorem exec_wrCmd_offering {c : Word32} {s t : State} (h : exec (.wrCmd c) s = .next t) (as : List Access) :
    exec (.wrCmd c) (s.offering as) = .next (t.offering as) := by
  cases hc : decodeCmd c with
  | none =>
    cases (execWrCmd_of_none hc s).symm.trans h
    exact execWrCmd_of_none hc _
  | some cmd =>
    have hp : Performs (.wrCmd c) cmd := .inr ⟨c, rfl, hc⟩
    rw [exec_of_performs hp] at h ⊢
    rcases decodeCmd_cases hc with rfl | rfl | rfl | ⟨b, rfl⟩ | rfl | rfl
    · cases h; rfl
    · exact exec_build_offering h as
    · exact exec_start_offering h as
    · exact feedBytes_offering (bs := [b]) h as
    · exact exec_final_offering h as
    · cases h; rfl

/-- An instruction neither sees nor changes what the host offers next (20_memory.md R51). -/
theorem exec_offering {i : Instr} {s t : State} (h : exec i s = .next t) (as : List Access) :
    exec i (s.offering as) = .next (t.offering as) := by
  cases i with
  | build => exact exec_build_offering h as
  | start => exact exec_start_offering h as
  | final => exact exec_final_offering h as
  | feed b => exact feedBytes_offering (bs := [b]) h as
  | wrData size v => exact feedBytes_offering (bs := dataBytes size v) h as
  | wrCmd c => exact exec_wrCmd_offering h as
  | _ => cases h; rfl

/-! ### A run of accepted accesses (R120) -/

/-- The access carries the instruction, or the command word of the instruction (30_encoding.md R60). -/
def Carries (a : Access) (i : Instr) : Prop := ∃ j, decodeBus a = .ok j ∧ Performs j i

/-- Outside a build an offered access is accepted and performs its instruction. -/
theorem step_offering {s t : State} {a : Access} {i : Instr} (ha : Carries a i) (hb : s.busy = false)
    (hlow : s.resetLine = []) (he : exec i s = .next t) (as : List Access) :
    step (s.offering (a :: as)) = .next (t.offering as) := by
  obtain ⟨j, hdecode, hperforms⟩ := ha
  have hfree : s.holds a = false := by rw [State.holds, hb, Bool.false_and]
  calc step (s.offering (a :: as)) = portTurn (s.offering (a :: as)) := by
        rw [step, turn, show (s.offering (a :: as)).resetLine = [] from hlow]
    _ = performAccess a (s.offering as) := if_neg (show ¬ s.holds a = true by simp [hfree])
    _ = exec i (s.offering as) := by rw [performAccess_of_ok hdecode, exec_of_performs hperforms]
    _ = .next (t.offering as) := exec_offering he as

/-- No instruction ends a build. -/
theorem not_busy_of_exec {i : Instr} {s t : State} (h : exec i s = .next t) (hb : t.busy = false) :
    s.busy = false := by
  cases exec_statusEffect h with
  | build => cases hb
  | _ => exact hb

theorem not_busy_of_execAll {is : List Instr} {s t : State} (h : execAll is s = .next t) (hb : t.busy = false) :
    s.busy = false := by
  induction is generalizing s with
  | nil => cases h; exact hb
  | cons i is ih =>
    obtain ⟨u, hu, hrest⟩ := exists_of_execAll_cons h
    exact not_busy_of_exec hu (ih hrest)

/-- With reset low and no build, a run of offered accesses performs their instructions. -/
theorem run_offering {as : List Access} {is : List Instr} (hcarry : List.Forall₂ Carries as is) {s t : State}
    (hlow : s.resetLine = []) (he : execAll is s = .next t) (hb : t.busy = false) (rest : List Access) :
    Host.Core.run Sys2Proof.core as.length (s.offering (as ++ rest)) = .next (t.offering rest) := by
  induction hcarry generalizing s with
  | nil => cases he; rfl
  | @cons a i as is ha _ ih =>
    obtain ⟨u, hu, hrest⟩ := exists_of_execAll_cons he
    obtain ⟨-, -, hlevels, -⟩ := (exec_effect hu).keeps_table_and_inputs
    have hbusy : s.busy = false := not_busy_of_exec hu (not_busy_of_execAll hrest hb)
    have hstep := step_offering ha hbusy hlow hu (as ++ rest)
    exact (run_of_step as.length hstep).trans (ih (hlevels.trans hlow) hrest)

/-! ### The accesses of the script (30_encoding.md R73) -/

theorem carries_cmdLine {c : Word32} {i : Instr} (h : decodeCmd c = some i) : Carries (cmdLine c) i :=
  ⟨.wrCmd c, (decodeBus_reg32 .cmd true (c.setWidth 64)).trans (by rw [setWidth_64_32]; rfl), .inr ⟨c, rfl, h⟩⟩

theorem carries_whole {r : Reg64} {w : Bool} {v : Word64} {i : Instr} (h : decodeReg64Whole r w v = .ok i) :
    Carries ⟨descOf w .eight (reg64Off r), v⟩ i :=
  ⟨i, (decodeBus_whole r w v).trans h, .refl i⟩

/-- `cmd feed`, as an access. -/
def feedCmd (b : Byte) : Access := cmdLine ((b.setWidth 32 <<< 8) ||| 0x3)

theorem carries_feedCmd (b : Byte) : Carries (feedCmd b) (.feed b) := by
  have hword : (b.setWidth 32 <<< 8) ||| 0x3 = cmdWord 0x03 b := by
    revert b
    decide
  exact carries_cmdLine (hword ▸ decodeCmd_feed b)

/-- The value `setcfg` writes to CFG. -/
def cfgValue (width : BitVec 2) (refl : Bool) : BitVec 4 := BitVec.ofBool refl ++ BitVec.ofBool refl ++ width

/-- `setcfg`, as an access. -/
def setcfgAccess (width : BitVec 2) (refl : Bool) : Access :=
  ⟨descOf true .four 0x000, (cfgValue width refl).setWidth 64⟩

theorem carries_setcfg (width : BitVec 2) (refl : Bool) :
    Carries (setcfgAccess width refl) (.wrCfg ((cfgValue width refl).setWidth 32)) := by
  refine ⟨_, (decodeBus_reg32 .cfg true _).trans ?_, .refl _⟩
  rw [BitVec.setWidth_setWidth_of_le _ (by decide)]
  rfl

/-- The state `s` configured for one record, with neither table nor register valid. -/
def State.configured (s : State) (width : BitVec 2) (refl : Bool) (p : Word64) : State :=
  { s with width := width, refin := refl, refout := refl, poly := p, tvalid := false, rvalid := false }

theorem execAll_configure (width : BitVec 2) (refl : Bool) (p : Word64) (s : State) :
    execAll [.wrCfg ((cfgValue width refl).setWidth 32), .wrPoly8 p] s =
      .next ((s.configured width refl p).respond .written) := by
  have hfields : ∀ (width : BitVec 2) (refl : Bool), ((cfgValue width refl).setWidth 32).extractLsb' 0 2 = width ∧
      ((cfgValue width refl).setWidth 32).getLsbD 2 = refl ∧
      ((cfgValue width refl).setWidth 32).getLsbD 3 = refl := by decide
  obtain ⟨hwidth, hrefin, hrefout⟩ := hfields width refl
  have hcfg : exec (.wrCfg ((cfgValue width refl).setWidth 32)) s = .next (State.respond
      { s with width := width, refin := refl, refout := refl, tvalid := false, rvalid := false } .written) := by
    show execWrCfg _ s = _
    rw [execWrCfg, hwidth, hrefin, hrefout]; rfl
  rw [execAll_cons_of_next hcfg]; rfl

/-- The accesses that configure the engine. -/
def configScript (width : BitVec 2) (refl : Bool) (p : Word64) : List Access :=
  [setcfgAccess width refl, ⟨descOf true .eight 0x010, p⟩]

theorem configScript_carries (width : BitVec 2) (refl : Bool) (p : Word64) :
    List.Forall₂ Carries (configScript width refl p) [.wrCfg ((cfgValue width refl).setWidth 32), .wrPoly8 p] :=
  .cons (carries_setcfg width refl) (.cons (carries_whole (r := .poly) rfl) .nil)

/-- The instructions of the stream, once the table is built. -/
def streamProgram (init xo : Word64) (data : List Byte) : List Instr :=
  .wrInit8 init :: (.start :: feeds data ++ [.wrXorout8 xo, .final, .rdResult8])

/-- The accesses of the stream. -/
def streamScript (init xo : Word64) (data : List Byte) : List Access :=
  ⟨descOf true .eight 0x018, init⟩ :: cmdLine 0x2 ::
    (data.map feedCmd ++ [⟨descOf true .eight 0x020, xo⟩, cmdLine 0x4, ⟨descOf false .eight 0x030, 0⟩])

theorem streamScript_carries (init xo : Word64) (data : List Byte) :
    List.Forall₂ Carries (streamScript init xo data) (streamProgram init xo data) := by
  have hfeeds : List.Forall₂ Carries (data.map feedCmd) (feeds data) := by
    rw [feeds, List.forall₂_map_left_iff, List.forall₂_map_right_iff, List.forall₂_same]
    exact fun b _ => carries_feedCmd b
  have hinit : Carries ⟨descOf true .eight 0x018, init⟩ (.wrInit8 init) := carries_whole (r := .init) rfl
  have hxorout : Carries ⟨descOf true .eight 0x020, xo⟩ (.wrXorout8 xo) := carries_whole (r := .xorout) rfl
  have hresult : Carries ⟨descOf false .eight 0x030, 0⟩ .rdResult8 := carries_whole (r := .result) rfl
  have hstart : Carries (cmdLine 0x2) .start := carries_cmdLine (by decide)
  have hfinal : Carries (cmdLine 0x4) .final := carries_cmdLine (by decide)
  exact .cons hinit (.cons hstart (List.rel_append hfeeds (.cons hxorout (.cons hfinal (.cons hresult .nil)))))

theorem crcScript_eq (width : BitVec 2) (refl : Bool) (p init xo : Word64) (data : List Byte) :
    crcScript width refl p init xo data =
      configScript width refl p ++ cmdLine 0x1 :: streamScript init xo data := by
  have hfeeds : (data.map Pseudo.cmdFeed).flatMap Pseudo.expand = data.map feedCmd := by
    rw [List.flatMap_map, List.map_eq_flatMap]; rfl
  rw [crcScript, hfeeds]
  simp [Pseudo.expand, configScript, streamScript, setcfgAccess, cfgValue]

/-! ### The run of the script (R110) -/

/-- With a built table, the stream ends in a read of the reference CRC. -/
theorem execAll_streamProgram {s : State} (ht : s.tvalid = true) (hbuilt : s.TableBuilt 256)
    (hcoupled : s.refin = s.refout) (init xo : Word64) (data : List Byte) :
    ∃ t, execAll (streamProgram init xo data) s = .next t ∧ t.busy = s.busy ∧
      t.resp = some (.word64 (refCrc s.W s.poly init s.refin xo data)) := by
  let ready : State := State.respond { s with init := init } .written
  have hready : exec (.wrInit8 init) s = .next ready := rfl
  obtain ⟨resp, hstream⟩ := execAll_start_feeds (s := ready) ht hcoupled data
  let fed : State := State.respond { ready.streamed data resp with xorout := xo } .written
  have hfed : exec (.wrXorout8 xo) (ready.streamed data resp) = .next fed := rfl
  have hfinal : exec .final fed = .next (State.respond { fed with result := fed.finalize } .written) :=
    exec_final_of_rvalid rfl
  have hcrc : fed.finalize = refCrc s.W s.poly init s.refin xo data :=
    State.finalize_eq_refCrc (s := fed) hbuilt hcoupled data rfl
  rw [streamProgram, execAll_cons_of_next hready, execAll_append_of_next hstream, execAll_cons_of_next hfed,
    execAll_cons_of_next hfinal]
  exact ⟨_, rfl, rfl, congrArg (fun v => some (Response.word64 v)) hcrc⟩

/-- The state after the configuration and the build, which has left `table`. -/
def State.prepared (s : State) (width : BitVec 2) (refl : Bool) (p : Word64) (table : Vector Word64 256) : State :=
  ((s.configured width refl p).respond .written).endBuild table []

/-- The configuration takes two turns, BUILD one, and the build 257, in which the next access is held. -/
theorem run_configScript {s : State} (hlow : s.resetLine = []) (hb : s.busy = false) (width : BitVec 2) (refl : Bool)
    (p : Word64) {a : Access} (ha : a.desc ≠ 0x4004) (as : List Access) :
    ∃ table, Host.Core.run Sys2Proof.core (2 + 1 + 257)
        (s.offering (configScript width refl p ++ cmdLine 0x1 :: a :: as)) =
          .next ((s.prepared width refl p table).offering (a :: as)) ∧
      (s.prepared width refl p table).TableBuilt 256 := by
  let conf : State := (s.configured width refl p).respond .written
  have hconf : Host.Core.run Sys2Proof.core 2 _ = .next (conf.offering (cmdLine 0x1 :: a :: as)) :=
    run_offering (configScript_carries width refl p) hlow (execAll_configure width refl p s) hb _
  have hbuild : exec .build conf = .next (conf.startBuild.respond .written) := execBuild_of_coupled rfl
  have hcmd : Carries (cmdLine 0x1) .build := carries_cmdLine (by decide)
  have hstep := step_offering hcmd (s := conf) hb hlow hbuild (a :: as)
  let start : State := (conf.startBuild.respond .written).offering (a :: as)
  obtain ⟨table, hrun, hbuilt⟩ := run_build 256 (s := start) rfl (.inr ⟨a, _, rfl, ha⟩)
    (show true ∉ s.resetLine by simp [hlow]) rfl
  have hlevels : start.resetLine.drop 257 = [] := by rw [show start.resetLine = [] from hlow, List.drop_nil]
  rw [hlevels] at hrun hbuilt
  exact ⟨table, (run_add 257 ((run_add 1 hconf).trans (run_of_step 0 hstep))).trans hrun, hbuilt nofun⟩

/-- Settles O53: the configuration and the build leave a built table, and the stream runs on it. -/
theorem hostSequenceReadsTheReferenceCrc : Obligations.HostSequenceReadsTheReferenceCrc := by
  intro s width refl p init xo data hb hlow hport
  have hinit : descOf true .eight 0x018 ≠ 0x4004 := by decide
  obtain ⟨table, hconfig, hbuilt⟩ := run_configScript hlow hb width refl p
    (a := ⟨descOf true .eight 0x018, init⟩) hinit (streamScript init xo data).tail
  obtain ⟨t, hexec, hbusy, hresp⟩ :=
    execAll_streamProgram (s := s.prepared width refl p table) rfl hbuilt rfl init xo data
  have hstream := run_offering (streamScript_carries init xo data) rfl hexec hbusy []
  rw [List.append_nil] at hstream
  have hsteps : s.port.length + 257 = 2 + 1 + 257 + (streamScript init xo data).length := by
    rw [hport, crcScript_eq, List.length_map, List.length_append, List.length_cons]
    show 2 + (_ + 1) + 257 = _
    omega
  refine ⟨t.offering [], ?_, rfl, hresp⟩
  rw [hsteps, ← State.offering_of_port hport, crcScript_eq]
  exact (run_add _ hconfig).trans hstream

end Sys2Proof.Machine
end

section
/-! The host's accesses to the registers (43_host_access.md): which access a step performs (R120), what the
configuration and the registers read as (R121 to R139), what each write leaves (R122 to R138), and the CMD write and NOP
(R127, R140). -/

namespace Sys2Proof.Machine

/-! ### The access a step performs (R120) -/

/-- No build holds an access while none runs, and no build holds the read of STATUS. -/
theorem State.holds_eq_false_iff (s : State) (a : Access) :
    s.holds a = false ↔ s.busy = false ∨ a.desc = 0x4004 := by
  rw [State.holds, Bool.and_eq_false_iff, Bool.not_eq_false', a.isStatusRead_iff]

/-- An offered access that is not held leaves the port and is performed. -/
theorem portTurn_of_not_held {s : State} {a : Access} {rest : List Offer} (hport : s.port = .access a :: rest)
    (hfree : s.holds a = false) : portTurn s = performAccess a { s with port := rest } := by
  simp only [portTurn, hport, hfree, Bool.false_eq_true, if_false]

/-- Settles O8: the access is not held, so the port's turn performs what it decodes to. -/
theorem stepRunsTheDecodedInstruction : Obligations.StepRunsTheDecodedInstruction := by
  intro s a rest i hport hreset hfree hdecode
  calc step s = portTurn { s with resetLine := s.resetLine.tail } := step_of_reset_low hreset
    _ = performAccess a { s with port := rest, resetLine := s.resetLine.tail } :=
      portTurn_of_not_held hport ((s.holds_eq_false_iff a).mpr hfree)
    _ = exec i { s with port := rest, resetLine := s.resetLine.tail } := performAccess_of_ok hdecode _

/-! ### Reads (R121, R125, R128 to R139) -/

theorem State.cfgWord_toNat (s : State) :
    s.cfgWord.toNat = s.width.toNat + 4 * s.refin.toNat + 8 * s.refout.toNat := by
  simp only [State.cfgWord, toNat_append_eq_add, BitVec.toNat_ofBool, BitVec.toNat_ofNat]
  omega

theorem State.irqenWord_toNat (s : State) : s.irqenWord.toNat = s.ieDone.toNat + 2 * s.ieErr.toNat := by
  simp only [State.irqenWord, toNat_append_eq_add, BitVec.toNat_ofBool, BitVec.toNat_ofNat]
  omega

/-- Settles O27: the words read are the concatenations of the fields. -/
theorem readOfCfgAndIrqen : Obligations.ReadOfCfgAndIrqen := fun s =>
  ⟨⟨s.cfgWord, rfl, s.cfgWord_toNat⟩, ⟨s.irqenWord, rfl, s.irqenWord_toNat⟩⟩

/-- Settles O33: each form returns its register or entry whole. -/
theorem eightByteReads : Obligations.EightByteReads := fun _ =>
  ⟨rfl, rfl, rfl, rfl, rfl, rfl, fun _ => rfl⟩

/-! ### Writes of CFG, STATUS and IRQEN (R122, R124, R126) -/

theorem toNat_getLsbD {w : Nat} (v : BitVec w) (k : Nat) : (v.getLsbD k).toNat = v.toNat / 2 ^ k % 2 :=
  Nat.toNat_testBit v.toNat k

/-- Settles O29: the fields are the low bits of the value. -/
theorem writeOfCfg : Obligations.WriteOfCfg := fun v _ =>
  ⟨_, rfl, BitVec.extractLsb'_toNat 0 2 v, toNat_getLsbD v 2, toNat_getLsbD v 3, rfl⟩

/-- A bit that is acknowledged is cleared, and any other keeps its value (60_exceptions.md R160). -/
theorem State.acknowledge_done_eq_ite (s : State) (d e : Bool) :
    (s.acknowledge d e).done = if d = true then false else s.done := by
  cases d <;> simp

/-- Settles O30: bit 3 of the value acknowledges DONE and bit 4 ERR. -/
theorem writeOfStatus : Obligations.WriteOfStatus := by
  intro v s
  have hdone : (s.acknowledge (v.getLsbD 3) (v.getLsbD 4)).done = if v.toNat / 8 % 2 = 1 then false else s.done :=
    (s.acknowledge_done_eq_ite _ _).trans (if_congr (getLsbD_eq_true_iff v 3) rfl rfl)
  have herr : (s.acknowledge (v.getLsbD 3) (v.getLsbD 4)).err = if v.toNat / 16 % 2 = 1 then 0 else s.err :=
    (s.acknowledge_err _ _).trans (if_congr (getLsbD_eq_true_iff v 4) rfl rfl)
  rw [← hdone, ← herr]
  rfl

/-- Settles O31: the enables are the low bits of the value, and irq follows from the enables. -/
theorem writeOfIrqen : Obligations.WriteOfIrqen := by
  intro v s
  let t : State := State.respond { s with ieDone := v.getLsbD 0, ieErr := v.getLsbD 1 } .written
  have hbit : v.toNat / 2 ^ 0 % 2 = v.toNat % 2 := by rw [Nat.pow_zero, Nat.div_one]
  have hdone : t.ieDone = true ↔ v.toNat % 2 = 1 := hbit ▸ getLsbD_eq_true_iff v 0
  have herr : t.ieErr = true ↔ v.toNat / 2 % 2 = 1 := getLsbD_eq_true_iff v 1
  have hirq := t.irq_iff.trans (or_congr (and_congr_left' hdone) (and_congr_left' herr))
  exact ⟨t, rfl, (toNat_getLsbD v 0).trans hbit, toNat_getLsbD v 1, rfl, hirq⟩

/-! ### Writes of the 64-bit registers (R129 to R131, R135, R138) -/

/-- Settles O36: the value stored is the value written, or the register with one half replaced. -/
theorem writeOfPoly : Obligations.WriteOfPoly := fun s =>
  ⟨fun _ => rfl, fun v => ⟨_, rfl, withHalf_low_toNat s.poly v⟩, fun v => ⟨_, rfl, withHalf_high_toNat s.poly v⟩⟩

theorem withHalf_toNat_of_low_else_high (h : Half) (old : Word64) (v : Word32) :
    (withHalf h old v).toNat = if h = .low then old.toNat / 2 ^ 32 * 2 ^ 32 + v.toNat
      else v.toNat * 2 ^ 32 + old.toNat % 2 ^ 32 := by
  rw [withHalf_toNat]
  cases h <;> rfl

/-- Settles O37: the value stored is the value written, or the register with one half replaced. -/
theorem writeOfInitXoroutRevin : Obligations.WriteOfInitXoroutRevin := fun s =>
  ⟨fun _ => ⟨rfl, rfl, rfl⟩, fun h v =>
    ⟨⟨_, rfl, withHalf_toNat_of_low_else_high h s.init v⟩, ⟨_, rfl, withHalf_toNat_of_low_else_high h s.xorout v⟩,
      ⟨_, rfl, withHalf_toNat_of_low_else_high h s.revin v⟩⟩⟩

/-- Settles O38: the value stored is the merged value at the width. -/
theorem writeOfCrc : Obligations.WriteOfCrc := by
  refine fun s => ⟨fun v => ⟨_, rfl, atWidth_toNat s.W_le v⟩, fun h v => ⟨_, rfl, ?_⟩⟩
  rw [State.writeCrc_reg, atWidth_toNat s.W_le, withHalf_toNat_of_low_else_high]

/-! ### The CMD write and NOP (R127, R140) -/

/-- BUILD, START and FINAL answer: they write the state or raise a command error. -/
theorem exists_next_of_checked (ok : Bool) (e : CmdError) (s u : State) :
    ∃ t, (if ok then u.written else raiseCmdError e s) = .next t := by
  cases ok <;> exact ⟨_, rfl⟩

theorem State.exists_feedBytes_eq_next (s : State) (bs : List Byte) : ∃ t, s.feedBytes bs = .next t := by
  cases h : s.feedCheck with
  | none => exact ⟨_, State.feedBytes_of_none h bs⟩
  | some e => exact ⟨_, State.feedBytes_of_error h bs⟩

theorem exec_wrCmd_of_decodeCmd {c : Word32} {i : Instr} (h : decodeCmd c = some i) (s : State) :
    exec (.wrCmd c) s = exec i s :=
  exec_of_performs (.inr ⟨c, rfl, h⟩) s

theorem exists_exec_wrCmd_eq_next (c : Word32) (s : State) : ∃ t, exec (.wrCmd c) s = .next t := by
  cases hc : decodeCmd c with
  | none => exact ⟨_, execWrCmd_of_none hc s⟩
  | some i =>
    rw [exec_wrCmd_of_decodeCmd hc]
    rcases decodeCmd_cases hc with rfl | rfl | rfl | ⟨b, rfl⟩ | rfl | rfl
    · exact ⟨_, rfl⟩
    · exact exists_next_of_checked s.cfgOk .cfg s _
    · exact exists_next_of_checked s.cfgOk .cfg s _
    · exact s.exists_feedBytes_eq_next [b]
    · exact exists_next_of_checked s.rvalid .noReg s _
    · exact ⟨_, rfl⟩

/-- Settles O32: a legal word performs its command, each of the words named decodes to its command, and any other word
raises an error, which completes the write. -/
theorem writeOfCmdRunsTheCommand : Obligations.WriteOfCmdRunsTheCommand := by
  intro s c
  have runs {c : Word32} {i : Instr} (h : decodeCmd c = some i) := exec_wrCmd_of_decodeCmd h s
  have feed (b : Byte) : BitVec.ofNat 32 (2 ^ 8 * b.toNat + 3) = cmdWord 0x03 b :=
    (eq_ofNat_of_toNat_eq ((cmdWord_toNat 0x03 b).trans (by rw [Nat.mul_comm]; rfl))).symm
  exact ⟨fun _ => runs, runs (by decide), runs (by decide), runs (by decide),
    fun b => runs (feed b ▸ decodeCmd_feed b), runs (by decide), runs (by decide), exists_exec_wrCmd_eq_next c s⟩

/-- Settles O49: NOP answers, and changes nothing. -/
theorem nopChangesNothing : Obligations.NopChangesNothing := fun _ => rfl

end Sys2Proof.Machine
end

section
/-! Exceptions (60_exceptions.md): the bus error of an illegal access (R155), what an operation that raises a command
error leaves (R150, R154), which operation records which code (R151), and that no step stops (R159). -/

namespace Sys2Proof.Machine

/-! ### Bus errors (R155) -/

theorem performAccess_of_error {a : Access} {r : BusError} (h : decodeBus a = .error r) (s : State) :
    performAccess a s = raiseBusError r s := by
  rw [performAccess, h]

/-- Settles O10: outside a build the access is not held, so the port's turn answers it with the bus error. -/
theorem illegalAccessGetsABusError : Obligations.IllegalAccessGetsABusError := by
  intro s a rest r hport hreset hb hdecode
  calc step s = portTurn { s with resetLine := s.resetLine.tail } := step_of_reset_low hreset
    _ = performAccess a { s with port := rest, resetLine := s.resetLine.tail } :=
      portTurn_of_not_held hport ((s.holds_eq_false_iff a).mpr (.inl hb))
    _ = raiseBusError r { s with port := rest, resetLine := s.resetLine.tail } := performAccess_of_error hdecode _

/-! ### Command errors (R150, R151, R154) -/

/-- An instruction with a cause of the table does nothing but raise the error of that cause. -/
theorem exec_of_raises {i : Instr} {s : State} {code : BitVec 3} (h : Raises i s code) :
    ∃ e : CmdError, e.code = code ∧ exec i s = raiseCmdError e s := by
  rcases h with ⟨rfl, c, rfl, hc⟩ | ⟨rfl, hne, hbuild | hstart⟩ | ⟨rfl, ht, hfeed⟩ |
    ⟨rfl, hr, ⟨ht, hfeed⟩ | hfinal⟩
  · exact ⟨.illCmd, rfl, execWrCmd_of_none hc s⟩
  · exact ⟨.cfg, rfl, (exec_of_performs hbuild s).trans (execBuild_of_uncoupled hne)⟩
  · exact ⟨.cfg, rfl, (exec_of_performs hstart s).trans (exec_start_of_uncoupled hne)⟩
  · obtain ⟨hnoTable, -, -⟩ := feedAndDataNeedTableAndRegister s i hfeed
    exact ⟨.noTable, rfl, hnoTable ht⟩
  · obtain ⟨-, hnoReg, -⟩ := feedAndDataNeedTableAndRegister s i hfeed
    exact ⟨.noReg, rfl, hnoReg ht hr⟩
  · exact ⟨.noReg, rfl, (exec_of_performs hfinal s).trans (exec_final_of_not_rvalid hr)⟩

/-- The causes of the table raise the codes 1 to 4. -/
theorem Raises.code_range {i : Instr} {s : State} {code : BitVec 3} (h : Raises i s code) :
    1 ≤ code.toNat ∧ code.toNat ≤ 4 := by
  obtain ⟨e, rfl, -⟩ := exec_of_raises h
  exact e.code_range

/-- Settles O22: every cause of the table ends in `raiseCmdError`, which writes ERR only. -/
theorem raisedErrorChangesOnlyErr : Obligations.RaisedErrorChangesOnlyErr := by
  intro i s code h
  obtain ⟨e, rfl, hexec⟩ := exec_of_raises h
  exact hexec

/-- With no error recorded, an instruction that raises an error leaves its code in ERR, and changes nothing else. -/
theorem eq_of_exec_of_raises {i : Instr} {s t : State} {code : BitVec 3} (h : exec i s = .next t) (h0 : s.err = 0)
    (hr : Raises i s code) : t = { s with err := code, resp := some .written } := by
  have hnext := h.symm.trans (raisedErrorChangesOnlyErr i s code hr)
  rw [if_pos h0] at hnext
  exact Host.Outcome.next.inj hnext

/-- With no error recorded, a code that an instruction leaves in ERR is one that it raises. -/
theorem raises_of_exec_of_err_ne_zero {i : Instr} {s t : State} (h : exec i s = .next t) (h0 : s.err = 0)
    (hne : t.err ≠ 0) : Raises i s t.err := by
  rcases raises_or_clearsErr_of_err_ne h (h0.symm ▸ hne) with ⟨-, hr⟩ | ⟨hclear, -⟩
  · exact hr
  · exact absurd hclear hne

/-- Settles O24: ERR leaves 0 exactly by a raised error, whose code is at most 4 and whose next state is known. -/
theorem commandErrorsByCause : Obligations.CommandErrorsByCause := by
  intro i s t h h0
  have raised (hne : t.err ≠ 0) : Raises i s t.err := raises_of_exec_of_err_ne_zero h h0 hne
  refine ⟨fun code hcode => ⟨?_, fun hr => ?_⟩, ?_, fun hne => eq_of_exec_of_raises h h0 (raised hne)⟩
  · rintro rfl
    exact raised hcode
  · rw [eq_of_exec_of_raises h h0 hr]
  · by_cases hne : t.err = 0
    · rw [hne]
      exact Nat.zero_le 4
    · exact (raised hne).code_range.2

/-! ### No step stops (R159) -/

/-- Every instruction answers a next state: a command that its check refuses raises a command error, which is one. -/
theorem exists_exec_eq_next (i : Instr) (s : State) : ∃ t, exec i s = .next t := by
  cases i with
  | wrCmd c => exact exists_exec_wrCmd_eq_next c s
  | build => exact exists_next_of_checked s.cfgOk .cfg s _
  | start => exact exists_next_of_checked s.cfgOk .cfg s _
  | feed b => exact s.exists_feedBytes_eq_next [b]
  | wrData size v => exact s.exists_feedBytes_eq_next (dataBytes size v)
  | final => exact exists_next_of_checked s.rvalid .noReg s _
  | _ => exact ⟨_, rfl⟩

theorem exists_performAccess_eq_next (a : Access) (s : State) : ∃ t, performAccess a s = .next t := by
  cases h : decodeBus a with
  | ok i => rw [performAccess_of_ok h]; exact exists_exec_eq_next i s
  | error r => exact ⟨_, performAccess_of_error h s⟩

/-- The port's turn moves the builder or performs the access offered. -/
theorem exists_portTurn_eq_next (s : State) : ∃ t, portTurn s = .next t := by
  unfold portTurn
  split
  · exact ⟨_, rfl⟩
  · exact ⟨_, rfl⟩
  · split
    · exact ⟨_, rfl⟩
    · exact exists_performAccess_eq_next _ _

/-- Settles O17: a step is a hardware reset or a turn of the port. -/
theorem everyStepGoesOn : Obligations.EveryStepGoesOn := by
  intro s
  by_cases hreset : s.resetLine.head? = some true
  · exact ⟨_, step_of_reset_high hreset⟩
  · rw [step_of_reset_low hreset]
    exact exists_portTurn_eq_next _

end Sys2Proof.Machine
end

section
/-! Reset, and the hold of a build (70_reset_and_hazards.md): what a hardware reset leaves (R170), which accesses a
build holds and for how long (R180), and that every build ends (R181). -/

namespace Sys2Proof.Machine

/-! ### Hardware reset (R170, R171) -/

/-- Settles O14: with the reset input high the turn is a hardware reset, whose next state is the reset state with a new
table. -/
theorem hardwareResetRestoresTheResetState : Obligations.HardwareResetRestoresTheResetState := by
  intro s rest hlevel
  have hhigh : s.resetLine.head? = some true := congrArg List.head? hlevel
  rw [step_of_reset_high hhigh, hlevel]
  rfl

/-! ### What one builder step leaves (41_table_builder.md R94) -/

/-- A build is over, and has left a valid table (41_table_builder.md R94). -/
def State.BuildEnded (s : State) : Prop := s.busy = false ∧ s.tvalid = true ∧ s.done = true

theorem State.endBuild_buildEnded (s : State) (table : Vector Word64 256) (resetLine : List Bool) :
    (s.endBuild table resetLine).BuildEnded := ⟨rfl, rfl, rfl⟩

/-- The builder writes T, BIDX, BUSY, TVALID and DONE at most. -/
theorem State.builderStep_frame (s : State) :
    s.builderStep = { s with
      table := s.builderStep.table, bidx := s.builderStep.bidx, busy := s.builderStep.busy
      tvalid := s.builderStep.tvalid, done := s.builderStep.done } := by
  rcases s.builderStep_cases with ⟨_, h⟩ | ⟨_, h⟩
  · rw [h]; rfl
  · rw [h]

@[simp] theorem State.builderStep_port (s : State) : s.builderStep.port = s.port :=
  (congrArg State.port s.builderStep_frame :)

@[simp] theorem State.builderStep_resp (s : State) : s.builderStep.resp = s.resp :=
  (congrArg State.resp s.builderStep_frame :)

@[simp] theorem State.builderStep_resetLine (s : State) : s.builderStep.resetLine = s.resetLine :=
  (congrArg State.resetLine s.builderStep_frame :)

theorem State.builderStep_bidx (s : State) :
    s.builderStep.bidx = if s.bidx.toNat < 256 then s.bidx + 1 else 0 := by
  split
  · next hlt => rw [State.builderStep_of_lt hlt]
  · next hge => rw [State.builderStep_of_ge (Nat.le_of_not_lt hge)]

/-- A builder step of a build goes on with it or ends it. -/
theorem State.builderStep_busy_or_buildEnded {s : State} (hb : s.busy = true) :
    s.builderStep.busy = true ∨ s.builderStep.BuildEnded := by
  rcases s.builderStep_cases with ⟨_, h⟩ | ⟨_, h⟩ <;> rw [h]
  · exact .inl hb
  · exact .inr ⟨rfl, rfl, rfl⟩

/-! ### The hold of an access (R180) -/

/-- While reset is low and the host waits, a build ends after a step for each entry left and one more; a BIDX above 256
ends it as 256 does. -/
theorem run_waitingBuild {s : State} (hb : s.busy = true) (hw : s.PortWaits) (hreset : true ∉ s.resetLine) :
    ∃ table resetLine, Host.Core.run Sys2Proof.core (257 - min s.bidx.toNat 256) s =
      .next (s.endBuild table resetLine) := by
  by_cases hle : s.bidx.toNat ≤ 256
  · obtain ⟨table, hrun, -⟩ := run_build (256 - s.bidx.toNat) hb hw hreset (Nat.add_sub_of_le hle)
    have hsteps : 257 - min s.bidx.toNat 256 = 256 - s.bidx.toNat + 1 := by omega
    exact ⟨table, _, hsteps ▸ hrun⟩
  · have hge : 256 ≤ s.bidx.toNat := by omega
    have hstep := step_of_portWaits hb hw (mt List.mem_of_head? hreset)
    rw [State.builderStep_of_ge (s := s.takeLevel) hge] at hstep
    rw [Nat.min_eq_right hge]
    exact ⟨s.table, s.resetLine.tail, run_of_step 0 hstep⟩

/-- A build answers the read of STATUS at once (43_host_access.md R120). -/
theorem step_of_statusRead {s : State} {a : Access} {rest : List Offer} (hport : s.port = .access a :: rest)
    (hreset : s.resetLine.head? ≠ some true) (ha : a.desc = 0x4004) :
    step s = exec .rdStatus { s with port := rest, resetLine := s.resetLine.tail } :=
  stepRunsTheDecodedInstruction s a rest .rdStatus hport hreset (.inr ha) (decodeBus_statusRead ha)

/-- Outside a build an offered access is performed, whether it is legal or not (43_host_access.md R120). -/
theorem step_of_not_busy {s : State} {a : Access} {rest : List Offer} (hport : s.port = .access a :: rest)
    (hreset : s.resetLine.head? ≠ some true) (hb : s.busy = false) :
    step s = performAccess a { s with port := rest, resetLine := s.resetLine.tail } :=
  (step_of_reset_low hreset).trans (portTurn_of_not_held hport ((s.holds_eq_false_iff a).mpr (.inl hb)))

/-- Settles O11: the turn of a held access is a builder step, which leaves the port, and the build it waits for ends;
the accesses that are not held are performed. -/
theorem busyHoldsTheAccess : Obligations.BusyHoldsTheAccess := by
  intro s a rest hport hreset
  refine ⟨fun hb ha => ?_, fun _ => step_of_statusRead hport hreset, step_of_not_busy hport hreset⟩
  have hw : s.PortWaits := .inr ⟨a, rest, hport, ha⟩
  refine ⟨⟨step_of_portWaits hb hw hreset, s.takeLevel.builderStep_port, s.takeLevel.builderStep_resp,
    fun _ => s.takeLevel.builderStep_bidx, s.takeLevel.builderStep_frame⟩, fun hlow => ?_⟩
  obtain ⟨table, resetLine, hrun⟩ := run_waitingBuild hb hw hlow
  exact ⟨_, hrun, rfl, rfl, rfl, rfl, rfl⟩

/-! ### Every build ends (R181) -/

/-- A run of at most `n` steps ends the build. -/
def State.BuildEndsWithin (s : State) (n : Nat) : Prop :=
  ∃ k t, k ≤ n ∧ Host.Core.run Sys2Proof.core k s = .next t ∧ t.BuildEnded

theorem State.BuildEnded.buildEndsWithin {s : State} (h : s.BuildEnded) (n : Nat) : s.BuildEndsWithin n :=
  ⟨0, s, n.zero_le, rfl, h⟩

theorem State.BuildEndsWithin.of_step {s t : State} {n : Nat} (hstep : step s = .next t)
    (h : t.BuildEndsWithin n) : s.BuildEndsWithin (n + 1) := by
  obtain ⟨k, u, hk, hrun, hend⟩ := h
  exact ⟨k + 1, u, Nat.succ_le_succ hk, (run_of_step k hstep).trans hrun, hend⟩

theorem State.BuildEndsWithin.of_portWaits {s : State} (hb : s.busy = true) (hw : s.PortWaits)
    (hreset : true ∉ s.resetLine) (n : Nat) : s.BuildEndsWithin (257 + n) := by
  obtain ⟨table, resetLine, hrun⟩ := run_waitingBuild hb hw hreset
  exact ⟨_, _, by omega, hrun, s.endBuild_buildEnded table resetLine⟩

/-- In a build the host waits, or its first offer leaves the port: an idle turn, or the read of STATUS. -/
theorem State.portWaits_or_consumes {s : State} {o : Offer} {rest : List Offer} (hport : s.port = o :: rest) :
    s.PortWaits ∨ o = .idle ∨ ∃ a, o = .access a ∧ a.desc = 0x4004 := by
  cases o with
  | idle => exact .inr (.inl rfl)
  | access a =>
    by_cases ha : a.desc = 0x4004
    · exact .inr (.inr ⟨a, rfl, ha⟩)
    · exact .inl (.inr ⟨a, rest, hport, ha⟩)

/-- A turn of a build in which the first offer leaves the port goes on with the build or ends it. -/
theorem exists_step_of_consumes {s : State} {o : Offer} {rest : List Offer} (hb : s.busy = true)
    (hreset : s.resetLine.head? ≠ some true) (hport : s.port = o :: rest)
    (ho : o = .idle ∨ ∃ a, o = .access a ∧ a.desc = 0x4004) :
    ∃ t, step s = .next t ∧ t.port = rest ∧ t.resetLine = s.resetLine.tail ∧ (t.busy = true ∨ t.BuildEnded) := by
  rcases ho with rfl | ⟨a, rfl, ha⟩
  · exact ⟨_, step_of_acceptsNothing hreset hb (.inr (.inl hport)), (s.takeInputs rest).builderStep_port,
      (s.takeInputs rest).builderStep_resetLine, State.builderStep_busy_or_buildEnded (s := s.takeInputs rest) hb⟩
  · exact ⟨_, step_of_statusRead hport hreset ha, rfl, rfl, .inl hb⟩

/-- By induction on the offers: one that leaves the port costs one step, and the builder finishes while one waits. -/
theorem buildEndsWithin_of_busy (offers : List Offer) {s : State} (hport : s.port = offers) (hb : s.busy = true)
    (hreset : true ∉ s.resetLine) : s.BuildEndsWithin (257 + offers.length) := by
  induction offers generalizing s with
  | nil => exact .of_portWaits hb (.inl hport) hreset 0
  | cons o rest ih =>
    rcases State.portWaits_or_consumes hport with hw | ho
    · exact .of_portWaits hb hw hreset _
    · obtain ⟨t, hstep, hrest, hlevels, hbusy | hend⟩ :=
        exists_step_of_consumes hb (mt List.mem_of_head? hreset) hport ho
      · have hlow : true ∉ t.resetLine := hlevels ▸ mt List.mem_of_mem_tail hreset
        exact .of_step hstep (ih hrest hbusy hlow)
      · exact .of_step hstep (hend.buildEndsWithin _)

/-- Settles O15: the bound counts the offers on the port. -/
theorem everyBuildCompletes : Obligations.EveryBuildCompletes := fun s hb hreset =>
  buildEndsWithin_of_busy s.port rfl hb hreset

end Sys2Proof.Machine
end
